-- ==== Sys2Proof/Word.lean ====
section
/-! DEFINITION. The word types of the core (00_scope.md R6, R7): every value is an unsigned number of a
stated width. -/

namespace Sys2Proof

/-- Four bits of an instruction word (R7: "a 4-bit slice of an instruction word"). -/
abbrev Nibble := BitVec 4

/-- A memory cell, a V register, a timer or the constant `nn` (10_state.md R10). -/
abbrev Byte := BitVec 8

/-- The constant `nnn` (30_encoding.md R61). -/
abbrev Addr12 := BitVec 12

/-- An instruction word, `I`, `pc` or a stack entry (10_state.md R10). -/
abbrev Word := BitVec 16

/-- The number of a V register, or of a key: every 4-bit value names one (10_state.md R11, R21). -/
abbrev RegIdx := Fin 16

end Sys2Proof
end

