-- ==== Sys2Proof/Config.lean ====
section
/-! DEFINITION. The parameters of 00_scope.md R6 that the model takes as constants, and its one free value.
The font table and the resume offset of return are parameters too; they stand in Machine/Memory.lean and
Machine/Ops.lean, beside the operations that use them. -/

namespace Sys2Proof.Config

/-- MEM_SIZE: cells of memory (R6, 20_memory.md R40). -/
def memSize : Nat := 4096

/-- PROG_BASE: where LoadProgram puts the first byte (R6, 40_cycle_engine.md R90). -/
def progBase : Nat := 0x200

/-- PROG_MAX: the longest program image (R6, R90). -/
def progMax : Nat := 3584

/-- PC_RESET: the entry point (R6, 70_reset_and_hazards.md R201). -/
def pcReset : Word := 0x200#16

/-- FONT_BASE: the address of the glyph of 0 (R6, 10_state.md R31). -/
def fontBase : Nat := 0x050

/-- FONT_GLYPH_BYTES (R6, R31). -/
def fontGlyphBytes : Nat := 5

/-- STACK_DEPTH: entries of the call stack (R6, R16). -/
def stackDepth : Nat := 16

/-- FB_W: columns of the frame buffer (R6, R19). -/
def fbWidth : Nat := 64

/-- FB_H: rows of the frame buffer (R6, R19). -/
def fbHeight : Nat := 32

/-- The free value `rnd` (40_cycle_engine.md R94, decision D12): the `k`-th byte that the random source
gives. It has no body, so nothing can be proved of its value. DESIGN CHOICE: one draw for each execution
of random, numbered by `State.draws` (log entry 1; safe). -/
opaque freeRandomByte : Nat → BitVec 8

end Sys2Proof.Config
end

