-- ==== Sys2Proof/Syntax.lean ====
section
/-! DEFINITION. The 35 operations (30_encoding.md R65), one constructor per row of the opcode table, with the
operand fields of R61. -/

namespace Sys2Proof

/-- The closed set of operations (30_encoding.md R65, R71). A field called `ignored` holds bits the encoding
has and the operation does not look at (R68); it is kept so that a word and its instruction determine each
other. DESIGN CHOICE (log entry 23; safe). -/
inductive Instr where
  /-- `00E0` (44_display.md R151) -/
  | clearScreen
  /-- `00EE`, return (41_control_transfer.md R102) -/
  | ret
  /-- `0nnn` but `00E0`, `00EE` (R101) -/
  | legacyCall (ignored : Addr12)
  /-- `1nnn` (R103) -/
  | jump (nnn : Addr12)
  /-- `2nnn` (R104) -/
  | call (nnn : Addr12)
  /-- `3xnn` (R105) -/
  | skipEqConst (x : RegIdx) (nn : Byte)
  /-- `4xnn` (R106) -/
  | skipNeqConst (x : RegIdx) (nn : Byte)
  /-- `5xy-` (R107) -/
  | skipEqReg (x y : RegIdx) (ignored : Nibble)
  /-- `6xnn` (42_alu.md R122) -/
  | setConst (x : RegIdx) (nn : Byte)
  /-- `7xnn` (R123) -/
  | addConst (x : RegIdx) (nn : Byte)
  /-- `8xy0` (R124) -/
  | assign (x y : RegIdx)
  /-- `8xy1`, or (R125) -/
  | orReg (x y : RegIdx)
  /-- `8xy2`, and (R126) -/
  | andReg (x y : RegIdx)
  /-- `8xy3`, xor (R127) -/
  | xorReg (x y : RegIdx)
  /-- `8xy4` (R128) -/
  | addReg (x y : RegIdx)
  /-- `8xy5` (R129) -/
  | subReg (x y : RegIdx)
  /-- `8x-6` (R130) -/
  | shiftRight (x ignored : RegIdx)
  /-- `8xy7` (R131) -/
  | subReverse (x y : RegIdx)
  /-- `8x-E` (R132) -/
  | shiftLeft (x ignored : RegIdx)
  /-- `9xy-` (41_control_transfer.md R108) -/
  | skipNeqReg (x y : RegIdx) (ignored : Nibble)
  /-- `Annn` (43_index_memory.md R141) -/
  | setIndex (nnn : Addr12)
  /-- `Bnnn` (41_control_transfer.md R109) -/
  | jumpIndexed (nnn : Addr12)
  /-- `Cxnn` (42_alu.md R133) -/
  | random (x : RegIdx) (nn : Byte)
  /-- `Dxyn` (44_display.md R152) -/
  | drawSprite (x y : RegIdx) (n : Nibble)
  /-- `Ex9E` (45_keys_timers.md R161) -/
  | skipIfKeyPressed (x : RegIdx)
  /-- `ExA1` (R162) -/
  | skipIfKeyNotPressed (x : RegIdx)
  /-- `Fx07` (R164) -/
  | getDelayTimer (x : RegIdx)
  /-- `Fx0A` (R163) -/
  | waitForKey (x : RegIdx)
  /-- `Fx15` (R165) -/
  | setDelayTimer (x : RegIdx)
  /-- `Fx18` (R166) -/
  | setSoundTimer (x : RegIdx)
  /-- `Fx1E` (43_index_memory.md R142) -/
  | addToIndex (x : RegIdx)
  /-- `Fx29` (R143) -/
  | spriteAddress (x : RegIdx)
  /-- `Fx33` (R144) -/
  | bcdStore (x : RegIdx)
  /-- `Fx55` (R145) -/
  | registerDump (x : RegIdx)
  /-- `Fx65` (R146) -/
  | registerLoad (x : RegIdx)
  deriving DecidableEq, Repr

/-- The operation's name, as 30_encoding.md R65 and the opcode table spell it. -/
def mnemonicOf : Instr → String
  | .clearScreen => "clear-screen"
  | .ret => "return"
  | .legacyCall _ => "legacy-call"
  | .jump _ => "jump"
  | .call _ => "call"
  | .skipEqConst _ _ => "skip-eq-const"
  | .skipNeqConst _ _ => "skip-neq-const"
  | .skipEqReg _ _ _ => "skip-eq-reg"
  | .setConst _ _ => "set-const"
  | .addConst _ _ => "add-const"
  | .assign _ _ => "assign"
  | .orReg _ _ => "or"
  | .andReg _ _ => "and"
  | .xorReg _ _ => "xor"
  | .addReg _ _ => "add-reg"
  | .subReg _ _ => "sub-reg"
  | .shiftRight _ _ => "shift-right"
  | .subReverse _ _ => "sub-reverse"
  | .shiftLeft _ _ => "shift-left"
  | .skipNeqReg _ _ _ => "skip-neq-reg"
  | .setIndex _ => "set-index"
  | .jumpIndexed _ => "jump-indexed"
  | .random _ _ => "random"
  | .drawSprite _ _ _ => "draw-sprite"
  | .skipIfKeyPressed _ => "skip-if-key-pressed"
  | .skipIfKeyNotPressed _ => "skip-if-key-not-pressed"
  | .getDelayTimer _ => "get-delay-timer"
  | .waitForKey _ => "wait-for-key"
  | .setDelayTimer _ => "set-delay-timer"
  | .setSoundTimer _ => "set-sound-timer"
  | .addToIndex _ => "add-to-index"
  | .spriteAddress _ => "sprite-address"
  | .bcdStore _ => "bcd-store"
  | .registerDump _ => "register-dump"
  | .registerLoad _ => "register-load"

end Sys2Proof
end

