-- ==== Sys2Proof/WellFormed.lean ====
section
/-! DEFINITION. Which terms of `Instr` stand for an instruction word. Every operand field has the width of its
field in the word, so the only terms that stand for none are the two legacy calls whose words are
clear-screen and return (30_encoding.md R65: the SYS row applies only when neither WORD row does). -/

namespace Sys2Proof

/-- An instruction term is well-formed when some word decodes to it (R64, R65). -/
def WellFormed : Instr → Bool
  | .clearScreen => true
  | .ret => true
  | .legacyCall nnn => nnn != 0x0E0#12 && nnn != 0x0EE#12
  | .jump _ => true
  | .call _ => true
  | .skipEqConst _ _ => true
  | .skipNeqConst _ _ => true
  | .skipEqReg _ _ _ => true
  | .setConst _ _ => true
  | .addConst _ _ => true
  | .assign _ _ => true
  | .orReg _ _ => true
  | .andReg _ _ => true
  | .xorReg _ _ => true
  | .addReg _ _ => true
  | .subReg _ _ => true
  | .shiftRight _ _ => true
  | .subReverse _ _ => true
  | .shiftLeft _ _ => true
  | .skipNeqReg _ _ _ => true
  | .setIndex _ => true
  | .jumpIndexed _ => true
  | .random _ _ => true
  | .drawSprite _ _ _ => true
  | .skipIfKeyPressed _ => true
  | .skipIfKeyNotPressed _ => true
  | .getDelayTimer _ => true
  | .waitForKey _ => true
  | .setDelayTimer _ => true
  | .setSoundTimer _ => true
  | .addToIndex _ => true
  | .spriteAddress _ => true
  | .bcdStore _ => true
  | .registerDump _ => true
  | .registerLoad _ => true

end Sys2Proof
end

