-- ==== Sys2Proof/Decode.lean ====
section
/-! DEFINITION. The decoder (30_encoding.md R60 to R70), the encoder, the opcode map as a table, and the assembler
text of R72. PRESUMED (log entry 3; unsafe): the opcode numbers and the places of the operand nibbles are
those of R61 and R65, most of which the spec itself marks as general knowledge (G1 to G4, G6). -/

namespace Sys2Proof

/-! ## The fields of a word (30_encoding.md R61) -/

/-- `op = w[15:12]`, the leading nibble. -/
def opField (w : Word) : Nibble := w.extractLsb' 12 4

/-- `x = w[11:8]`. -/
def xField (w : Word) : RegIdx := (w.extractLsb' 8 4).toFin

/-- `y = w[7:4]`. -/
def yField (w : Word) : RegIdx := (w.extractLsb' 4 4).toFin

/-- `n = w[3:0]`, the trailing nibble. -/
def nField (w : Word) : Nibble := w.extractLsb' 0 4

/-- `nn = w[7:0]`, the trailing byte. -/
def nnField (w : Word) : Byte := w.extractLsb' 0 8

/-- `nnn = w[11:0]`. -/
def nnnField (w : Word) : Addr12 := w.extractLsb' 0 12

/-! ## The decoder -/

/-- Why the decoder gives no instruction. -/
inductive Reject where
  /-- the word encodes nothing in the instruction set (R64, R67) -/
  | noMatch (w : Word)
  /-- fewer than the two bytes every instruction has (R60); no fetch meets this -/
  | truncated
  deriving DecidableEq, Repr

/-- Leading nibble 0: the two fixed words, then the catch-all (R64). -/
def decodeFamily0 (w : Word) : Except Reject Instr :=
  if w = 0x00E0#16 then .ok .clearScreen
  else if w = 0x00EE#16 then .ok .ret
  else .ok (.legacyCall (nnnField w))

/-- Leading nibble 8: nine operations selected by the trailing nibble (R64, R65, R67). -/
def decodeFamily8 (w : Word) : Except Reject Instr :=
  let n := nField w
  if n = 0x0#4 then .ok (.assign (xField w) (yField w))
  else if n = 0x1#4 then .ok (.orReg (xField w) (yField w))
  else if n = 0x2#4 then .ok (.andReg (xField w) (yField w))
  else if n = 0x3#4 then .ok (.xorReg (xField w) (yField w))
  else if n = 0x4#4 then .ok (.addReg (xField w) (yField w))
  else if n = 0x5#4 then .ok (.subReg (xField w) (yField w))
  else if n = 0x6#4 then .ok (.shiftRight (xField w) (yField w))
  else if n = 0x7#4 then .ok (.subReverse (xField w) (yField w))
  else if n = 0xE#4 then .ok (.shiftLeft (xField w) (yField w))
  else .error (.noMatch w)

/-- Leading nibble E: two operations selected by the trailing byte. -/
def decodeFamilyE (w : Word) : Except Reject Instr :=
  let nn := nnField w
  if nn = 0x9E#8 then .ok (.skipIfKeyPressed (xField w))
  else if nn = 0xA1#8 then .ok (.skipIfKeyNotPressed (xField w))
  else .error (.noMatch w)

/-- Leading nibble F: nine operations selected by the trailing byte. -/
def decodeFamilyF (w : Word) : Except Reject Instr :=
  let nn := nnField w
  if nn = 0x07#8 then .ok (.getDelayTimer (xField w))
  else if nn = 0x0A#8 then .ok (.waitForKey (xField w))
  else if nn = 0x15#8 then .ok (.setDelayTimer (xField w))
  else if nn = 0x18#8 then .ok (.setSoundTimer (xField w))
  else if nn = 0x1E#8 then .ok (.addToIndex (xField w))
  else if nn = 0x29#8 then .ok (.spriteAddress (xField w))
  else if nn = 0x33#8 then .ok (.bcdStore (xField w))
  else if nn = 0x55#8 then .ok (.registerDump (xField w))
  else if nn = 0x65#8 then .ok (.registerLoad (xField w))
  else .error (.noMatch w)

/-- The decoder: total on every word, one operation or an explicit "no match" (R64). -/
def decode (w : Word) : Except Reject Instr :=
  let op := opField w
  if op = 0x0#4 then decodeFamily0 w
  else if op = 0x1#4 then .ok (.jump (nnnField w))
  else if op = 0x2#4 then .ok (.call (nnnField w))
  else if op = 0x3#4 then .ok (.skipEqConst (xField w) (nnField w))
  else if op = 0x4#4 then .ok (.skipNeqConst (xField w) (nnField w))
  else if op = 0x5#4 then .ok (.skipEqReg (xField w) (yField w) (nField w))
  else if op = 0x6#4 then .ok (.setConst (xField w) (nnField w))
  else if op = 0x7#4 then .ok (.addConst (xField w) (nnField w))
  else if op = 0x8#4 then decodeFamily8 w
  else if op = 0x9#4 then .ok (.skipNeqReg (xField w) (yField w) (nField w))
  else if op = 0xA#4 then .ok (.setIndex (nnnField w))
  else if op = 0xB#4 then .ok (.jumpIndexed (nnnField w))
  else if op = 0xC#4 then .ok (.random (xField w) (nnField w))
  else if op = 0xD#4 then .ok (.drawSprite (xField w) (yField w) (nField w))
  else if op = 0xE#4 then decodeFamilyE w
  else decodeFamilyF w

/-- The decoder on bytes: the first two, high byte first (R60, 20_memory.md R42), and the rest of the list. -/
def decodeBytes : List Byte → Except Reject (Instr × List Byte)
  | hi :: lo :: rest => (decode (hi ++ lo)).map (fun i => (i, rest))
  | _ => .error .truncated

/-! ## The encoder -/

/-- The nibble that names a register. -/
def regNibble (r : RegIdx) : Nibble := BitVec.ofFin r

/-- Formats ADDR and SYS (R62): `op nnn`. -/
def wordAddr (op : Nibble) (nnn : Addr12) : Word := op ++ nnn

/-- Formats XNN and XKK (R62): `op x nn`. -/
def wordXnn (op : Nibble) (x : RegIdx) (nn : Byte) : Word := op ++ regNibble x ++ nn

/-- Formats XY, XYK and XYN (R62): `op x y n`. -/
def wordXyn (op : Nibble) (x y : RegIdx) (n : Nibble) : Word := op ++ regNibble x ++ regNibble y ++ n

/-- The word of an instruction (R62, R65). -/
def encode : Instr → Word
  | .clearScreen => 0x00E0#16
  | .ret => 0x00EE#16
  | .legacyCall nnn => wordAddr 0x0 nnn
  | .jump nnn => wordAddr 0x1 nnn
  | .call nnn => wordAddr 0x2 nnn
  | .skipEqConst x nn => wordXnn 0x3 x nn
  | .skipNeqConst x nn => wordXnn 0x4 x nn
  | .skipEqReg x y n => wordXyn 0x5 x y n
  | .setConst x nn => wordXnn 0x6 x nn
  | .addConst x nn => wordXnn 0x7 x nn
  | .assign x y => wordXyn 0x8 x y 0x0
  | .orReg x y => wordXyn 0x8 x y 0x1
  | .andReg x y => wordXyn 0x8 x y 0x2
  | .xorReg x y => wordXyn 0x8 x y 0x3
  | .addReg x y => wordXyn 0x8 x y 0x4
  | .subReg x y => wordXyn 0x8 x y 0x5
  | .shiftRight x y => wordXyn 0x8 x y 0x6
  | .subReverse x y => wordXyn 0x8 x y 0x7
  | .shiftLeft x y => wordXyn 0x8 x y 0xE
  | .skipNeqReg x y n => wordXyn 0x9 x y n
  | .setIndex nnn => wordAddr 0xA nnn
  | .jumpIndexed nnn => wordAddr 0xB nnn
  | .random x nn => wordXnn 0xC x nn
  | .drawSprite x y n => wordXyn 0xD x y n
  | .skipIfKeyPressed x => wordXnn 0xE x 0x9E
  | .skipIfKeyNotPressed x => wordXnn 0xE x 0xA1
  | .getDelayTimer x => wordXnn 0xF x 0x07
  | .waitForKey x => wordXnn 0xF x 0x0A
  | .setDelayTimer x => wordXnn 0xF x 0x15
  | .setSoundTimer x => wordXnn 0xF x 0x18
  | .addToIndex x => wordXnn 0xF x 0x1E
  | .spriteAddress x => wordXnn 0xF x 0x29
  | .bcdStore x => wordXnn 0xF x 0x33
  | .registerDump x => wordXnn 0xF x 0x55
  | .registerLoad x => wordXnn 0xF x 0x65

/-- The two bytes of an instruction, as memory holds them: high byte first (20_memory.md R42). -/
def encodeBytes (i : Instr) : List Byte :=
  [(encode i).extractLsb' 8 8, (encode i).extractLsb' 0 8]

/-! ## The opcode map as a table (30_encoding.md R65) -/

/-- One row: the word `w` selects it when `w & mask = value`. -/
structure OpcodeRow where
  mnemonic : String
  mask : Word
  value : Word
  deriving DecidableEq, Repr

/-- The rows in R65's order: the two WORD rows stand before the SYS row, which applies only when neither
of them does, so the first row that matches is the one selected. -/
def opcodeMap : List OpcodeRow :=
  [⟨"clear-screen", 0xFFFF, 0x00E0⟩, ⟨"return", 0xFFFF, 0x00EE⟩, ⟨"legacy-call", 0xF000, 0x0000⟩,
   ⟨"jump", 0xF000, 0x1000⟩, ⟨"call", 0xF000, 0x2000⟩, ⟨"skip-eq-const", 0xF000, 0x3000⟩,
   ⟨"skip-neq-const", 0xF000, 0x4000⟩, ⟨"skip-eq-reg", 0xF000, 0x5000⟩, ⟨"set-const", 0xF000, 0x6000⟩,
   ⟨"add-const", 0xF000, 0x7000⟩] ++
  [⟨"assign", 0xF00F, 0x8000⟩, ⟨"or", 0xF00F, 0x8001⟩, ⟨"and", 0xF00F, 0x8002⟩, ⟨"xor", 0xF00F, 0x8003⟩,
   ⟨"add-reg", 0xF00F, 0x8004⟩, ⟨"sub-reg", 0xF00F, 0x8005⟩, ⟨"shift-right", 0xF00F, 0x8006⟩,
   ⟨"sub-reverse", 0xF00F, 0x8007⟩, ⟨"shift-left", 0xF00F, 0x800E⟩] ++
  [⟨"skip-neq-reg", 0xF000, 0x9000⟩, ⟨"set-index", 0xF000, 0xA000⟩, ⟨"jump-indexed", 0xF000, 0xB000⟩,
   ⟨"random", 0xF000, 0xC000⟩, ⟨"draw-sprite", 0xF000, 0xD000⟩, ⟨"skip-if-key-pressed", 0xF0FF, 0xE09E⟩,
   ⟨"skip-if-key-not-pressed", 0xF0FF, 0xE0A1⟩] ++
  [⟨"get-delay-timer", 0xF0FF, 0xF007⟩, ⟨"wait-for-key", 0xF0FF, 0xF00A⟩, ⟨"set-delay-timer", 0xF0FF, 0xF015⟩,
   ⟨"set-sound-timer", 0xF0FF, 0xF018⟩, ⟨"add-to-index", 0xF0FF, 0xF01E⟩, ⟨"sprite-address", 0xF0FF, 0xF029⟩,
   ⟨"bcd-store", 0xF0FF, 0xF033⟩, ⟨"register-dump", 0xF0FF, 0xF055⟩, ⟨"register-load", 0xF0FF, 0xF065⟩]

/-- The name the opcode map gives a word, if a row matches (R65). -/
def opcodeMapName (w : Word) : Option String :=
  (opcodeMap.find? (fun row => w &&& row.mask == row.value)).map OpcodeRow.mnemonic

/-! ## Assembler text (30_encoding.md R72) -/

/-- One hexadecimal digit, as R72 writes them. -/
def hexDigit (n : Nibble) : String :=
  ["0", "1", "2", "3", "4", "5", "6", "7", "8", "9", "A", "B", "C", "D", "E", "F"].getD n.toNat ""

/-- A register operand: `V` and one digit. -/
def regText (r : RegIdx) : String := "V" ++ hexDigit (regNibble r)

/-- A constant operand: `0x` and two digits. -/
def nnText (nn : Byte) : String := "0x" ++ hexDigit (nn.extractLsb' 4 4) ++ hexDigit (nn.extractLsb' 0 4)

/-- An address operand: `0x` and three digits. -/
def nnnText (nnn : Addr12) : String :=
  "0x" ++ hexDigit (nnn.extractLsb' 8 4) ++ hexDigit (nnn.extractLsb' 4 4) ++ hexDigit (nnn.extractLsb' 0 4)

/-- A sprite height: a decimal number 0 to 15. -/
def heightText (n : Nibble) : String :=
  ["0", "1", "2", "3", "4", "5", "6", "7", "8", "9", "10", "11", "12", "13", "14", "15"].getD n.toNat ""

/-- The operands of an instruction in R72's order, without the ignored fields and the implicit operands. -/
def operandTexts : Instr → List String
  | .clearScreen => []
  | .ret => []
  | .legacyCall nnn => [nnnText nnn]
  | .jump nnn => [nnnText nnn]
  | .call nnn => [nnnText nnn]
  | .skipEqConst x nn => [regText x, nnText nn]
  | .skipNeqConst x nn => [regText x, nnText nn]
  | .skipEqReg x y _ => [regText x, regText y]
  | .setConst x nn => [regText x, nnText nn]
  | .addConst x nn => [regText x, nnText nn]
  | .assign x y => [regText x, regText y]
  | .orReg x y => [regText x, regText y]
  | .andReg x y => [regText x, regText y]
  | .xorReg x y => [regText x, regText y]
  | .addReg x y => [regText x, regText y]
  | .subReg x y => [regText x, regText y]
  | .shiftRight x _ => [regText x]
  | .subReverse x y => [regText x, regText y]
  | .shiftLeft x _ => [regText x]
  | .skipNeqReg x y _ => [regText x, regText y]
  | .setIndex nnn => [nnnText nnn]
  | .jumpIndexed nnn => [nnnText nnn]
  | .random x nn => [regText x, nnText nn]
  | .drawSprite x y n => [regText x, regText y, heightText n]
  | .skipIfKeyPressed x => [regText x]
  | .skipIfKeyNotPressed x => [regText x]
  | .getDelayTimer x => [regText x]
  | .waitForKey x => [regText x]
  | .setDelayTimer x => [regText x]
  | .setSoundTimer x => [regText x]
  | .addToIndex x => [regText x]
  | .spriteAddress x => [regText x]
  | .bcdStore x => [regText x]
  | .registerDump x => [regText x]
  | .registerLoad x => [regText x]

/-- Operands separated by commas. -/
def commaText : List String → String
  | [] => ""
  | [a] => " " ++ a
  | a :: rest => " " ++ a ++ "," ++ commaText rest

/-- The instruction as R72 writes it: the operation's name, then its operands. -/
def asmText (i : Instr) : String := mnemonicOf i ++ commaText (operandTexts i)

/-! ## The host's reading of a word -/

/-- The instruction the decoder reads from a table word of `nbits` bits: bit 0 is the least significant bit of
the one 16-bit word, and every bit the word has above `nbits` is 0. -/
def decodeTableWord (nbits w : Nat) : Option Instr :=
  match decodeBytes [BitVec.ofNat 8 (w % 2 ^ nbits / 256), BitVec.ofNat 8 (w % 2 ^ nbits)] with
  | .ok (i, _) => some i
  | .error _ => none

end Sys2Proof
end

