-- ==== Sys2Proof/Machine/State.lean ====
section
/-! DEFINITION. The machine state (10_state.md R10): every piece of state the spec gives the core, as plain data, and
its value after reset (R26). -/

namespace Sys2Proof.Machine

/-- A fatal condition's kind (60_exceptions.md R170). -/
inductive FaultKind where
  /-- no fault recorded -/
  | none
  /-- raised by decode, in the cycle that fetched the word (R171) -/
  | invalidInstruction
  /-- raised by call when the stack is full (R172) -/
  | callStackOverflow
  /-- raised by the host's LoadProgram when the image is too long (R174) -/
  | programTooLarge
  /-- raised by return when the stack is empty (R173) -/
  | stackUnderflow
  deriving DecidableEq, Repr

/-- The fault record `(kind, word, addr)` (10_state.md R23). -/
structure FaultRecord where
  kind : FaultKind
  word : Word
  addr : Word
  deriving DecidableEq, Repr

/-- The record that says no fault happened: kind None, word 0, addr 0 (R26, R170). -/
def FaultRecord.empty : FaultRecord := ⟨.none, 0x0000#16, 0x0000#16⟩

/-- `MEM`, 4096 cells (R22), as the list of the cells that differ from their reset contents: addresses
strictly rising (`Memory.wf`, in Machine/Memory.lean). -/
abbrev Memory := List Host.Cell

/-- `FB`, 32 rows of 64 pixels (R19); true is set. -/
abbrev FrameBuffer := Vector (Vector Bool 64) 32

/-- The core's state: the list of R10, and one field of the model's own. -/
structure State where
  /-- `MEM` (R22) -/
  mem : Memory
  /-- `V0` to `VF`; `VF` is the flag register (R11, R12) -/
  v : Vector Byte 16
  /-- `I` (R13) -/
  index : Word
  /-- `pc` (R14) -/
  pc : Word
  /-- `Stack[0..15]` (R16) -/
  stack : Vector Word 16
  /-- `SP`, 0 to 16: the number of entries in use (R17, R29) -/
  sp : Fin 17
  /-- `DT`, the delay timer (R18) -/
  dt : Byte
  /-- `ST`, the sound timer (R18) -/
  st : Byte
  /-- `FB` (R19) -/
  fb : FrameBuffer
  /-- `redraw` (R20) -/
  redraw : Bool
  /-- `Key[0..15]`; true is pressed (R21) -/
  key : Vector Bool 16
  /-- the halted latch (R23) -/
  halted : Bool
  /-- the fault record (R23) -/
  fault : FaultRecord
  /-- THE MODEL'S OWN, not the spec's: how many random bytes have been drawn, which names the next free
  value of `rnd` (40_cycle_engine.md R94). DESIGN CHOICE (log entry 1; safe). -/
  draws : Nat
  deriving DecidableEq, Repr

/-- The state after reset (R26, 70_reset_and_hazards.md R200): memory at its reset contents, so nothing is
listed. The zeros of `I`, `SP`, `DT`, `ST`, `Key`, `redraw`, `halted` and the record are the spec's decision D15
(log entry 15; unsafe); `draws` starts at 0 (log entry 1). -/
def State.reset : State where
  mem := []
  v := Vector.replicate 16 0x00#8
  index := 0x0000#16
  pc := Config.pcReset
  stack := Vector.replicate 16 0x0000#16
  sp := 0
  dt := 0x00#8
  st := 0x00#8
  fb := Vector.replicate 32 (Vector.replicate 64 false)
  redraw := false
  key := Vector.replicate 16 false
  halted := false
  fault := .empty
  draws := 0

/-- The reasons a step could stop with a fault: NONE. Every fatal condition of the spec is a next state with
the halted latch and the record set (60_exceptions.md R177), no access of memory fails (20_memory.md R41), and
every register holds a value. Nobody raises a fault, so the type has no constructor. DESIGN CHOICE (log
entry 9; safe). -/
inductive Fault
  deriving DecidableEq, Repr

/-- The reasons a step could refuse. -/
inductive Refusal where
  /-- Raised by an arm of `exec` whose instruction has no meaning yet; safe. Every arm has its meaning, so
  nobody raises it. -/
  | notModelled (mnemonic : String)
  deriving DecidableEq, Repr

/-- What a meaning answers. -/
abbrev Answer := Host.Outcome State Fault Refusal

end Sys2Proof.Machine
end

