-- ==== Sys2Proof/Machine/Memory.lean ====
section
/-! DEFINITION. The one memory (20_memory.md): its reset contents with the font (10_state.md R26, R31), its canonical
form, and the two byte primitives MemRead and MemWrite (R41). -/

namespace Sys2Proof.Machine

/-- FONT_ROM (10_state.md R31): 16 glyphs of 5 bytes, top row first, pixels in bits 7 to 4. PRESUMED (log
entry 2; unsafe): the bytes are the spec's default table, which the spec takes from general knowledge (G8). -/
def fontRom : List Byte :=
  [0xF0, 0x90, 0x90, 0x90, 0xF0, 0x20, 0x60, 0x20, 0x20, 0x70,
   0xF0, 0x10, 0xF0, 0x80, 0xF0, 0xF0, 0x10, 0xF0, 0x10, 0xF0,
   0x90, 0x90, 0xF0, 0x10, 0x10, 0xF0, 0x80, 0xF0, 0x10, 0xF0,
   0xF0, 0x80, 0xF0, 0x90, 0xF0, 0xF0, 0x10, 0x20, 0x40, 0x40] ++
  [0xF0, 0x90, 0xF0, 0x90, 0xF0, 0xF0, 0x90, 0xF0, 0x10, 0xF0,
   0xF0, 0x90, 0xF0, 0x90, 0x90, 0xE0, 0x90, 0xE0, 0x90, 0xE0,
   0xF0, 0x80, 0x80, 0x80, 0xF0, 0xE0, 0x90, 0x90, 0x90, 0xE0,
   0xF0, 0x80, 0xF0, 0x80, 0xF0, 0xF0, 0x80, 0xF0, 0x80, 0x80]

/-- What an address that `MEM` does not list holds: its reset contents (R26), the font at 0x050 to 0x09F and
zero everywhere else. -/
def unlisted (a : Nat) : Byte :=
  if Config.fontBase ≤ a then fontRom.getD (a - Config.fontBase) 0x00#8 else 0x00#8

/-- The canonical form from address `lo` on: addresses rise strictly, lie inside the memory, and no cell holds
what an unlisted one does. -/
def wfFrom : Nat → Memory → Bool
  | _, [] => true
  | lo, (k, b) :: rest =>
    decide (lo ≤ k) && decide (k < Config.memSize) && decide (b ≠ unlisted k) && wfFrom (k + 1) rest

/-- The memory is in canonical form, so that equal memories are equal lists. -/
def Memory.wf (m : Memory) : Bool := wfFrom 0 m

/-- The byte at an address below 4096. -/
def lookup : Memory → Nat → Byte
  | [], a => unlisted a
  | (k, b) :: rest, a => if a = k then b else lookup rest a

/-- The memory without its cell at `a`. -/
def eraseCell (m : Memory) (a : Nat) : Memory := m.filter (fun cell => cell.1 != a)

/-- Put a cell before the first one with a higher address. -/
def insertCell (a : Nat) (b : Byte) : Memory → Memory
  | [] => [(a, b)]
  | (k, c) :: rest => if a < k then (a, b) :: (k, c) :: rest else (k, c) :: insertCell a b rest

/-- Store a byte at an address below 4096, keeping the canonical form. -/
def store (m : Memory) (a : Nat) (b : Byte) : Memory :=
  if b = unlisted a then eraseCell m a else insertCell a b (eraseCell m a)

/-- MemRead(addr, 1): `MEM[addr mod 4096]` (20_memory.md R41; decision D1, log entry 6). -/
def memRead (m : Memory) (addr : Nat) : Byte := lookup m (addr % Config.memSize)

/-- MemWrite(addr, 1, v): `MEM[addr mod 4096] <- v` (R41; decision D1, log entry 6). -/
def memWrite (m : Memory) (addr : Nat) (b : Byte) : Memory := store m (addr % Config.memSize) b

/-- Write a run of bytes at ascending addresses, lowest first (R43). -/
def memWriteRun (m : Memory) : Nat → List Byte → Memory
  | _, [] => m
  | addr, b :: rest => memWriteRun (memWrite m addr b) (addr + 1) rest

end Sys2Proof.Machine
end

