-- ==== Sys2Proof/Machine/Ops.lean ====
section
/-! DEFINITION. The named operations over the state: registers, memory, `pc`, the call stack, the frame buffer, the
keys, the timers, the three ways a cycle ends (40_cycle_engine.md R81), and raising a fatal condition
(60_exceptions.md R177). -/

namespace Sys2Proof.Machine

/-! ## Registers and memory -/

/-- The number of VF, the flag register (10_state.md R12). -/
def vf : RegIdx := 15

/-- Read `V[r]` (R11). -/
def reg (s : State) (r : RegIdx) : Byte := s.v[r]

/-- Write `V[r]` (R11). -/
def setReg (s : State) (r : RegIdx) (b : Byte) : State := { s with v := s.v.set r b }

/-- Read one byte of memory, the address reduced modulo 4096 (20_memory.md R41). -/
def readByte (s : State) (addr : Nat) : Byte := memRead s.mem addr

/-- Write one byte of memory, the address reduced modulo 4096 (R41). -/
def writeByte (s : State) (addr : Nat) (b : Byte) : State := { s with mem := memWrite s.mem addr b }

/-- Write a run of bytes at ascending addresses (R43). -/
def writeRun (s : State) (addr : Nat) (bs : List Byte) : State := { s with mem := memWriteRun s.mem addr bs }

/-- Write `I` (10_state.md R13). -/
def setIndexReg (s : State) (w : Word) : State := { s with index := w }

/-- Write `DT` (R18). -/
def setDelay (s : State) (b : Byte) : State := { s with dt := b }

/-- Write `ST` (R18). -/
def setSound (s : State) (b : Byte) : State := { s with st := b }

/-! ## The program counter (10_state.md R15; width and wrap are decision D2, log entry 7) -/

/-- `advance`: one instruction width. -/
def advance (s : State) : State := { s with pc := s.pc + 2 }

/-- `skip`: two instruction widths. -/
def skip (s : State) : State := { s with pc := s.pc + 4 }

/-- `pc <- target`: no check of parity or range (41_control_transfer.md R100). -/
def jumpTo (s : State) (target : Word) : State := { s with pc := target }

/-- `if cond then skip else advance`. -/
def skipIf (cond : Bool) (s : State) : State := if cond then skip s else advance s

/-! ## The call stack (R16, R17; decision D4, log entry 8) -/

/-- `Stack[SP] <- w; SP <- SP + 1`, when the stack is not full. -/
def push (s : State) (w : Word) (h : s.sp.val < 16) : State :=
  { s with stack := s.stack.set s.sp.val w, sp := ⟨s.sp.val + 1, by omega⟩ }

/-- The entry that `SP - 1` names, when the stack is not empty. -/
def top (s : State) (h : 0 < s.sp.val) : Word := s.stack[s.sp.val - 1]'(by have := s.sp.isLt; omega)

/-- `SP <- SP - 1`; the entry keeps its value (R16). -/
def dropTop (s : State) : State := { s with sp := ⟨s.sp.val - 1, by have := s.sp.isLt; omega⟩ }

/-- RET_RESUME_OFFSET (00_scope.md R6): what return adds to the popped value. The document fixes it to 0, so
return lands on the call itself (90_conflicts.md C4; log entry 22). -/
def retResumeOffset : Word := 0x0000#16

/-! ## The frame buffer, a torus of 64 by 32 (44_display.md R150; decision D13, log entry 13) -/

/-- `FB[px mod 64, py mod 32]`. -/
def pixelOf (fb : FrameBuffer) (px py : Nat) : Bool :=
  (fb[py % 32]'(Nat.mod_lt _ (by decide)))[px % 64]'(Nat.mod_lt _ (by decide))

/-- `FB[px mod 64, py mod 32] <- b`. -/
def setPixelOf (fb : FrameBuffer) (px py : Nat) (b : Bool) : FrameBuffer :=
  fb.set (py % 32) ((fb[py % 32]'(Nat.mod_lt _ (by decide))).set (px % 64) b (Nat.mod_lt _ (by decide)))
    (Nat.mod_lt _ (by decide))

/-- A frame buffer with every pixel unset. -/
def blankFrame : FrameBuffer := Vector.replicate 32 (Vector.replicate 64 false)

/-- Read a pixel of the state. -/
def pixel (s : State) (px py : Nat) : Bool := pixelOf s.fb px py

/-- Replace the frame buffer and set `redraw`, as both display operations do (R153). -/
def showFrame (s : State) (fb : FrameBuffer) : State := { s with fb := fb, redraw := true }

/-- One bit of a sprite row (R152): column offset `k`, bit `7 - k` of the row byte `b`. A set bit flips its
pixel and collides when the pixel was set; a clear bit does nothing. PRESUMED (log entry 5; unsafe): bit 7
is the leftmost pixel (G7). -/
def drawBit (x0 y0 : Nat) (b : Byte) (acc : FrameBuffer × Bool) (k : Nat) : FrameBuffer × Bool :=
  if b.getLsbD (7 - k) then
    (setPixelOf acc.1 (x0 + k) y0 (!pixelOf acc.1 (x0 + k) y0), acc.2 || pixelOf acc.1 (x0 + k) y0)
  else acc

/-- One sprite row: its eight bits, left to right. -/
def drawRow (x0 y0 : Nat) (b : Byte) (acc : FrameBuffer × Bool) : FrameBuffer × Bool :=
  (List.range 8).foldl (drawBit x0 y0 b) acc

/-- A sprite of `n` rows read from `MEM[addr]` upward, drawn with its corner at column `x0`, row `y0`: the new
frame buffer and whether some pixel went from set to unset (R152). -/
def drawRows (m : Memory) (addr x0 y0 n : Nat) (fb : FrameBuffer) : FrameBuffer × Bool :=
  (List.range n).foldl (fun acc r => drawRow x0 (y0 + r) (memRead m (addr + r)) acc) (fb, false)

/-! ## Keys (10_state.md R21) -/

/-- Is key `k` pressed? -/
def keyDown (s : State) (k : RegIdx) : Bool := s.key[k]

/-- The pressed key of least number (45_keys_timers.md R163; decision D11, log entry 12). -/
def leastKey (s : State) : Option RegIdx := (List.finRange 16).find? (fun k => keyDown s k)

/-! ## How a cycle ends (40_cycle_engine.md R81) -/

/-- A timer counts down with a floor at 0 (R85, 90_conflicts.md C7). -/
def tick (b : Byte) : Byte := if b = 0x00#8 then 0x00#8 else b - 1

/-- The timer phase: each timer that is not zero goes down by one (R85). -/
def timerPhase (s : State) : State := { s with dt := tick s.dt, st := tick s.st }

/-- A cycle that ends Done: the operation's effects stand, then the timer phase (R81, R85). The timer phase is
part of each meaning (DESIGN CHOICE, log entry 19; safe). -/
def done (s : State) : Answer := .next (timerPhase s)

/-- A cycle that ends Blocked: nothing changes, the timers included (R86). -/
def blocked (s : State) : Answer := .next s

/-- A cycle requested while halted: nothing changes and nothing is fetched (R88). -/
def idle (s : State) : Answer := .next s

/-! ## Taking a fatal condition (60_exceptions.md R177) -/

/-- The state after `raise kind(word, addr)`: the latch is set, the record filled, nothing else changes (R177).
There is no return from it: only the host's Reset leaves the halted state (R178; `hostReset` in
Machine/HostActions.lean). -/
def raiseState (kind : FaultKind) (word addr : Word) (s : State) : State :=
  { s with halted := true, fault := ⟨kind, word, addr⟩ }

/-- The one shared operation that takes a fatal condition: a next state, with no timer phase (R87, R177). -/
def raise (kind : FaultKind) (word addr : Word) (s : State) : Answer := .next (raiseState kind word addr s)

/-! ## Fetch (40_cycle_engine.md R82) -/

/-- The word at `pc`: the byte at `pc` high, the byte at `pc + 1` low (20_memory.md R42). -/
def fetchWord (s : State) : Word := readByte s s.pc.toNat ++ readByte s (s.pc.toNat + 1)

/-- The state with `w` stored where the next cycle fetches, high byte first, and able to fetch: the latch and
the record cleared (log entry 20). -/
def placeWord (s : State) (w : Word) : State :=
  { s with
    mem := memWriteRun s.mem s.pc.toNat [w.extractLsb' 8 8, w.extractLsb' 0 8]
    halted := false
    fault := .empty }

end Sys2Proof.Machine
end

