-- ==== Sys2Proof/Machine/Operands.lean ====
section
/-! DEFINITION. The operand forms (30_encoding.md R63): registers, zero-extended constants and addresses, the low
nibble of a register, the range `V[0..x]`, and the addresses formed from `I` (43_index_memory.md R140). -/

namespace Sys2Proof.Machine

/-- `zext_16(nnn)` (R63). -/
def addrOperand (nnn : Addr12) : Word := nnn.setWidth 16

/-- `zext_16` of a register value (41_control_transfer.md R109, 43_index_memory.md R142). -/
def byteOperand (b : Byte) : Word := b.setWidth 16

/-- `V[x] & 0x0F` as a key or digit number (45_keys_timers.md R160, 43_index_memory.md R143; decisions D9, D10,
log entry 11). -/
def lowNibble (b : Byte) : RegIdx := (b.extractLsb' 0 4).toFin

/-- The registers of the range operand `V[0..x]`, ascending (43_index_memory.md R145, R146). -/
def regsUpTo (x : RegIdx) : List RegIdx := (List.finRange 16).filter (fun r => decide (r ≤ x))

/-- The address of the `k`-th byte of an access through `I`, computed without wrap; the memory reduces it
(43_index_memory.md R140). -/
def indexedAddr (s : State) (k : Nat) : Nat := s.index.toNat + k

/-- The address of the glyph of a digit: `0x050 + 5 * d` (R143). -/
def glyphAddr (d : RegIdx) : Word := BitVec.ofNat 16 (Config.fontBase + Config.fontGlyphBytes * d.val)

/-- The decimal digits of a byte, hundreds first, each a byte 0 to 9 (R144). -/
def bcdDigits (b : Byte) : List Byte :=
  [BitVec.ofNat 8 (b.toNat / 100), BitVec.ofNat 8 (b.toNat / 10 % 10), BitVec.ofNat 8 (b.toNat % 10)]

end Sys2Proof.Machine
end

