-- ==== Sys2Proof/Machine/Flags.lean ====
section
/-! DEFINITION. The values written to VF as a flag (10_state.md R12, 42_alu.md R120) and the one operation that writes
a result and a flag (R121). -/

namespace Sys2Proof.Machine

/-- A condition as a flag value, 1 or 0. -/
def flag (c : Bool) : Byte := if c then 0x01#8 else 0x00#8

/-- Carry of an addition: 1 when the exact sum exceeds 255 (R120, R128). -/
def carryFlag (a b : Byte) : Byte := flag (decide (255 < a.toNat + b.toNat))

/-- NOT-borrow of `a - b`: 1 when `a >= b` (R120, R129, R131). -/
def notBorrowFlag (a b : Byte) : Byte := flag (decide (b.toNat ≤ a.toNat))

/-- The bit a right shift drops: the least significant bit (R130). -/
def lowBitFlag (a : Byte) : Byte := flag (a.getLsbD 0)

/-- The bit a left shift drops: the most significant bit (R132). -/
def highBitFlag (a : Byte) : Byte := flag (a.getLsbD 7)

/-- Write the result to `V[x]`, then the flag to VF: when `x = 15` the flag is what VF holds (R121; decision D7,
log entry 10). -/
def setRegAndFlag (s : State) (x : RegIdx) (result flagValue : Byte) : State :=
  setReg (setReg s x result) vf flagValue

end Sys2Proof.Machine
end

