-- ==== Sys2Proof/Machine/Alu.lean ====
section
/-! DEFINITION. Register and ALU operations (42_alu.md): constants, the nine family-8 operations, random. Operands are
read at the start of the instruction (R121); every operation advances. -/

namespace Sys2Proof.Machine

/-- R122. -/
def execSetConst (x : RegIdx) (nn : Byte) (s : State) : Answer := done (advance (setReg s x nn))

/-- R123: wraps modulo 256, no flag. -/
def execAddConst (x : RegIdx) (nn : Byte) (s : State) : Answer := done (advance (setReg s x (reg s x + nn)))

/-- R124. -/
def execAssign (x y : RegIdx) (s : State) : Answer := done (advance (setReg s x (reg s y)))

/-- R125: no flag. -/
def execOrReg (x y : RegIdx) (s : State) : Answer := done (advance (setReg s x (reg s x ||| reg s y)))

/-- R126: no flag. -/
def execAndReg (x y : RegIdx) (s : State) : Answer := done (advance (setReg s x (reg s x &&& reg s y)))

/-- R127: no flag. -/
def execXorReg (x y : RegIdx) (s : State) : Answer := done (advance (setReg s x (reg s x ^^^ reg s y)))

/-- R128: sum modulo 256, VF the carry. -/
def execAddReg (x y : RegIdx) (s : State) : Answer :=
  done (advance (setRegAndFlag s x (reg s x + reg s y) (carryFlag (reg s x) (reg s y))))

/-- R129: `V[x] - V[y]` modulo 256, VF the NOT-borrow. -/
def execSubReg (x y : RegIdx) (s : State) : Answer :=
  done (advance (setRegAndFlag s x (reg s x - reg s y) (notBorrowFlag (reg s x) (reg s y))))

/-- R130: `V[x]` shifted right by one, VF the bit shifted out; `y` is ignored (30_encoding.md R68). -/
def execShiftRight (x _ignored : RegIdx) (s : State) : Answer :=
  done (advance (setRegAndFlag s x (reg s x >>> 1) (lowBitFlag (reg s x))))

/-- R131: `V[y] - V[x]` modulo 256, VF the NOT-borrow. PRESUMED (log entry 4; unsafe): the spec gives this
operation from general knowledge (G5). -/
def execSubReverse (x y : RegIdx) (s : State) : Answer :=
  done (advance (setRegAndFlag s x (reg s y - reg s x) (notBorrowFlag (reg s y) (reg s x))))

/-- R132: `V[x]` shifted left by one, VF the bit shifted out; `y` is ignored (R68). -/
def execShiftLeft (x _ignored : RegIdx) (s : State) : Answer :=
  done (advance (setRegAndFlag s x (reg s x <<< 1) (highBitFlag (reg s x))))

/-- R133 with the cycle's draw given: `V[x] <- rnd & nn`; the draw is used up. -/
def execRandomWith (rnd : Byte) (x : RegIdx) (nn : Byte) (s : State) : Answer :=
  done (advance { setReg s x (rnd &&& nn) with draws := s.draws + 1 })

/-- R133: `rnd` is the free value that `draws` names (40_cycle_engine.md R94; decision D12, log entry 1). -/
def execRandom (x : RegIdx) (nn : Byte) (s : State) : Answer :=
  execRandomWith (Config.freeRandomByte s.draws) x nn s

end Sys2Proof.Machine
end

