-- ==== Sys2Proof/Machine/ControlTransfer.lean ====
section
/-! DEFINITION. Control transfer (41_control_transfer.md): legacy-call, return, jump, call, the four register
skips, jump-indexed. During execute `pc` is the address the instruction was fetched from (10_state.md R14). -/

namespace Sys2Proof.Machine

/-- R101: a no-op that advances (decision D14, log entry 14); `nnn` is ignored. -/
def execLegacyCall (_ignored : Addr12) (s : State) : Answer := done (advance s)

/-- R102: an empty stack raises StackUnderflow before anything is written (R173; decision D5, log entry 8);
otherwise `SP` goes down and `pc` becomes the popped value with nothing added (90_conflicts.md C4). -/
def execRet (s : State) : Answer :=
  if h : 0 < s.sp.val then done (jumpTo (dropTop s) (top s h + retResumeOffset))
  else raise .stackUnderflow (encode .ret) s.pc s

/-- R103. -/
def execJump (nnn : Addr12) (s : State) : Answer := done (jumpTo s (addrOperand nnn))

/-- R104: a full stack raises CallStackOverflow before anything is written (R172); otherwise the call's own
address is pushed. -/
def execCall (nnn : Addr12) (s : State) : Answer :=
  if h : s.sp.val < 16 then done (jumpTo (push s s.pc h) (addrOperand nnn))
  else raise .callStackOverflow (encode (.call nnn)) s.pc s

/-- R105. -/
def execSkipEqConst (x : RegIdx) (nn : Byte) (s : State) : Answer := done (skipIf (reg s x == nn) s)

/-- R106. -/
def execSkipNeqConst (x : RegIdx) (nn : Byte) (s : State) : Answer := done (skipIf (reg s x != nn) s)

/-- R107; the trailing nibble is ignored (30_encoding.md R68). -/
def execSkipEqReg (x y : RegIdx) (_ignored : Nibble) (s : State) : Answer :=
  done (skipIf (reg s x == reg s y) s)

/-- R108; the trailing nibble is ignored (R68). -/
def execSkipNeqReg (x y : RegIdx) (_ignored : Nibble) (s : State) : Answer :=
  done (skipIf (reg s x != reg s y) s)

/-- R109: the 16-bit sum, not reduced (decision D2, log entry 7). -/
def execJumpIndexed (nnn : Addr12) (s : State) : Answer :=
  done (jumpTo s (addrOperand nnn + byteOperand (reg s 0)))

end Sys2Proof.Machine
end

