-- ==== Sys2Proof/Machine/Display.lean ====
section
/-! DEFINITION. Display operations (44_display.md). Both set `redraw` without condition (R153, 90_conflicts.md C6)
and advance. -/

namespace Sys2Proof.Machine

/-- R151: every pixel unset; VF is not touched. -/
def execClearScreen (s : State) : Answer := done (advance (showFrame s blankFrame))

/-- R152: the coordinates are read before VF is written; VF is the collision flag (details are decision D13, log
entry 13). -/
def execDrawSprite (x y : RegIdx) (n : Nibble) (s : State) : Answer :=
  let out := drawRows s.mem s.index.toNat (reg s x).toNat (reg s y).toNat n.toNat s.fb
  done (advance (setReg (showFrame s out.1) vf (flag out.2)))

end Sys2Proof.Machine
end

