-- ==== Sys2Proof/Machine/IndexMemory.lean ====
section
/-! DEFINITION. Index register and memory operations (43_index_memory.md). None changes `I` through a memory access
(R140; decision D8, log entry 11); none writes a flag; every one advances. -/

namespace Sys2Proof.Machine

/-- R141. -/
def execSetIndex (nnn : Addr12) (s : State) : Answer := done (advance (setIndexReg s (addrOperand nnn)))

/-- R142: modulo 65536, no flag. -/
def execAddToIndex (x : RegIdx) (s : State) : Answer :=
  done (advance (setIndexReg s (s.index + byteOperand (reg s x))))

/-- R143: the glyph of the low nibble; no memory is read. -/
def execSpriteAddress (x : RegIdx) (s : State) : Answer :=
  done (advance (setIndexReg s (glyphAddr (lowNibble (reg s x)))))

/-- R144: hundreds, tens, units at `I`, `I + 1`, `I + 2`. -/
def execBcdStore (x : RegIdx) (s : State) : Answer :=
  done (advance (writeRun s (indexedAddr s 0) (bcdDigits (reg s x))))

/-- R145: `V[0..x]` to `MEM[I]` upward. -/
def execRegisterDump (x : RegIdx) (s : State) : Answer :=
  done (advance (writeRun s (indexedAddr s 0) ((regsUpTo x).map (reg s))))

/-- `V[r]` loaded from `MEM[I + r]` for each register of the list. -/
def loadRegs (rs : List RegIdx) (s : State) : State :=
  rs.foldl (fun t r => setReg t r (readByte s (indexedAddr s r.val))) s

/-- R146: `V[0..x]` from `MEM[I]` upward. -/
def execRegisterLoad (x : RegIdx) (s : State) : Answer := done (advance (loadRegs (regsUpTo x) s))

end Sys2Proof.Machine
end

