-- ==== Sys2Proof/Machine/KeysTimers.lean ====
section
/-! DEFINITION. Keypad and timer operations (45_keys_timers.md). The key tested is the low nibble of the register
(R160; decision D10, log entry 11). -/

namespace Sys2Proof.Machine

/-- R161. -/
def execSkipIfKeyPressed (x : RegIdx) (s : State) : Answer :=
  done (skipIf (keyDown s (lowNibble (reg s x))) s)

/-- R162. -/
def execSkipIfKeyNotPressed (x : RegIdx) (s : State) : Answer :=
  done (skipIf (!keyDown s (lowNibble (reg s x))) s)

/-- R163: no key pressed blocks the cycle, otherwise the least pressed key (decision D11, log entry 12). -/
def execWaitForKey (x : RegIdx) (s : State) : Answer :=
  match leastKey s with
  | none => blocked s
  | some k => done (advance (setReg s x (BitVec.ofNat 8 k.val)))

/-- R164: the value before this cycle's timer phase. -/
def execGetDelayTimer (x : RegIdx) (s : State) : Answer := done (advance (setReg s x s.dt))

/-- R165: the timer phase of the same cycle acts on the new value. -/
def execSetDelayTimer (x : RegIdx) (s : State) : Answer := done (advance (setDelay s (reg s x)))

/-- R166. -/
def execSetSoundTimer (x : RegIdx) (s : State) : Answer := done (advance (setSound s (reg s x)))

end Sys2Proof.Machine
end

