-- ==== Sys2Proof/Machine/Dispatch.lean ====
section
/-! DEFINITION. exec: one arm per operation (30_encoding.md R71), each one call of its meaning. -/

namespace Sys2Proof.Machine

def exec (i : Instr) (s : State) : Host.Outcome State Fault Refusal :=
  match i with
  | .clearScreen => Sys2Proof.Machine.execClearScreen s
  | .ret => Sys2Proof.Machine.execRet s
  | .legacyCall nnn => Sys2Proof.Machine.execLegacyCall nnn s
  | .jump nnn => Sys2Proof.Machine.execJump nnn s
  | .call nnn => Sys2Proof.Machine.execCall nnn s
  | .skipEqConst x nn => Sys2Proof.Machine.execSkipEqConst x nn s
  | .skipNeqConst x nn => Sys2Proof.Machine.execSkipNeqConst x nn s
  | .skipEqReg x y n => Sys2Proof.Machine.execSkipEqReg x y n s
  | .setConst x nn => Sys2Proof.Machine.execSetConst x nn s
  | .addConst x nn => Sys2Proof.Machine.execAddConst x nn s
  | .assign x y => Sys2Proof.Machine.execAssign x y s
  | .orReg x y => Sys2Proof.Machine.execOrReg x y s
  | .andReg x y => Sys2Proof.Machine.execAndReg x y s
  | .xorReg x y => Sys2Proof.Machine.execXorReg x y s
  | .addReg x y => Sys2Proof.Machine.execAddReg x y s
  | .subReg x y => Sys2Proof.Machine.execSubReg x y s
  | .shiftRight x y => Sys2Proof.Machine.execShiftRight x y s
  | .subReverse x y => Sys2Proof.Machine.execSubReverse x y s
  | .shiftLeft x y => Sys2Proof.Machine.execShiftLeft x y s
  | .skipNeqReg x y n => Sys2Proof.Machine.execSkipNeqReg x y n s
  | .setIndex nnn => Sys2Proof.Machine.execSetIndex nnn s
  | .jumpIndexed nnn => Sys2Proof.Machine.execJumpIndexed nnn s
  | .random x nn => Sys2Proof.Machine.execRandom x nn s
  | .drawSprite x y n => Sys2Proof.Machine.execDrawSprite x y n s
  | .skipIfKeyPressed x => Sys2Proof.Machine.execSkipIfKeyPressed x s
  | .skipIfKeyNotPressed x => Sys2Proof.Machine.execSkipIfKeyNotPressed x s
  | .getDelayTimer x => Sys2Proof.Machine.execGetDelayTimer x s
  | .waitForKey x => Sys2Proof.Machine.execWaitForKey x s
  | .setDelayTimer x => Sys2Proof.Machine.execSetDelayTimer x s
  | .setSoundTimer x => Sys2Proof.Machine.execSetSoundTimer x s
  | .addToIndex x => Sys2Proof.Machine.execAddToIndex x s
  | .spriteAddress x => Sys2Proof.Machine.execSpriteAddress x s
  | .bcdStore x => Sys2Proof.Machine.execBcdStore x s
  | .registerDump x => Sys2Proof.Machine.execRegisterDump x s
  | .registerLoad x => Sys2Proof.Machine.execRegisterLoad x s

end Sys2Proof.Machine
end

