-- ==== Sys2Proof/Machine/Cycle.lean ====
section
/-! DEFINITION. One cycle of the engine (40_cycle_engine.md R81): halted check, fetch, decode, execute with its timer
phase. -/

namespace Sys2Proof.Machine

/-- Decode's answer, run: the operation, or InvalidInstruction with the fetched word and its address (R81, R87,
60_exceptions.md R171). -/
def runDecoded (w : Word) (s : State) : Answer :=
  match decode w with
  | .ok i => exec i s
  | .error _ => raise .invalidInstruction w s.pc s

/-- Cycle (R81). A halted core does nothing (R88; decision D6, log entry 9). -/
def cycle (s : State) : Answer := if s.halted then idle s else runDecoded (fetchWord s) s

end Sys2Proof.Machine
end

