-- ==== Sys2Proof/Machine/Step.lean ====
section
/-! DEFINITION. One step of the machine is one cycle (00_scope.md R5); and the state whose next fetch is a given word. -/

namespace Sys2Proof.Machine

/-- One step: one requested cycle, with nothing done by the host before it (log entry 16). -/
def step (s : State) : Host.Outcome State Fault Refusal := cycle s

/-- `s` with the table word `w` of `nbits` bits where the next step fetches: big-endian at `pc`, every bit above
`nbits` zero, and the latch clear so that the next step does fetch (log entry 20). -/
def State.withFetchWord (s : State) (nbits w : Nat) : State := placeWord s (BitVec.ofNat 16 (w % 2 ^ nbits))

end Sys2Proof.Machine
end

