-- ==== Sys2Proof/Machine/HostActions.lean ====
section
/-! DEFINITION. What the host does between cycles (40_cycle_engine.md R89, R90; 70_reset_and_hazards.md R200): the actions
that change the state, and what the host reads. The host acts only between cycles (decision D23), so an action
is a function of the whole state and never meets a cycle half done. -/

namespace Sys2Proof.Machine

/-- The host's actions that change the state (R89). -/
inductive HostAction where
  /-- replace all sixteen key flags -/
  | setKeys (keys : Vector Bool 16)
  /-- clear the redraw flag -/
  | ackRedraw
  /-- copy a program image to 0x200 upward, or raise ProgramTooLarge -/
  | loadProgram (image : List Byte)
  /-- every piece of state takes its reset value -/
  | reset
  deriving DecidableEq, Repr

/-- SetKeys (R89, 10_state.md R21). -/
def hostSetKeys (keys : Vector Bool 16) (s : State) : State := { s with key := keys }

/-- AckRedraw (R89, R20). -/
def hostAckRedraw (s : State) : State := { s with redraw := false }

/-- LoadProgram (R90): at most 3584 bytes go to 0x200 upward, whenever it is used; a longer image raises
ProgramTooLarge with word and address 0, and no byte is written (60_exceptions.md R174; decision D16). -/
def hostLoadProgram (image : List Byte) (s : State) : State :=
  if image.length ≤ Config.progMax then writeRun s Config.progBase image
  else raiseState .programTooLarge 0x0000#16 0x0000#16 s

/-- Reset (70_reset_and_hazards.md R200). The count of draws goes on, so that the random bytes after a reset are
not the ones before it again. DESIGN CHOICE (log entry 18; safe). -/
def hostReset (s : State) : State := { State.reset with draws := s.draws }

/-- A host action (R89, R90). It has its effect whether or not the core is halted: R89, R90, 10_state.md R28 and
44_display.md R153 put no such condition, and the inference 10_state.md R27 (d) is read as being about cycles (DESIGN
CHOICE, log entry 17; unsafe). None but Reset clears the latch. -/
def hostAct (a : HostAction) (s : State) : State :=
  match a with
  | .setKeys keys => hostSetKeys keys s
  | .ackRedraw => hostAckRedraw s
  | .loadProgram image => hostLoadProgram image s
  | .reset => hostReset s

/-! ## What the host reads (R89, R92): none of these changes the state -/

/-- ReadFrameBuffer through the read port: pixel `y * 64 + x` (10_state.md R19, R92). -/
def hostReadFrameBuffer (s : State) (addr : BitVec 11) : Bool := pixel s (addr.toNat % 64) (addr.toNat / 64)

/-- ReadRedraw (R89). -/
def hostReadRedraw (s : State) : Bool := s.redraw

/-- ReadFault (R89): the latch and the record. -/
def hostReadFault (s : State) : Bool × FaultRecord := (s.halted, s.fault)

/-- The `fault_kind` code of a kind (60_exceptions.md R170, R92). -/
def faultCode : FaultKind → BitVec 3
  | .none => 0
  | .invalidInstruction => 1
  | .callStackOverflow => 2
  | .programTooLarge => 3
  | .stackUnderflow => 4

end Sys2Proof.Machine
end

