-- ==== Sys2Proof/Safety.lean ====
section
/-! DEFINITION. The terms the claims use: what a cycle leaves unchanged, which registers an operation may write, how
`pc` moves, the invariants, and the states that cycles and host actions reach. -/

namespace Sys2Proof.Machine

/-! ## Frames -/

/-- Every V register but those of `P` keeps its value. -/
def SameRegsBut (P : RegIdx → Prop) (s t : State) : Prop := ∀ r, ¬ P r → reg t r = reg s r

/-- Every byte of memory reads as before. -/
def SameMemory (s t : State) : Prop := ∀ a, readByte t a = readByte s a

/-- Every byte of memory reads as before but those at the `n` addresses from `a` on, each reduced modulo 4096. -/
def SameMemoryBut (a n : Nat) (s t : State) : Prop :=
  ∀ b, (∀ k, k < n → (a + k) % 4096 ≠ b % 4096) → readByte t b = readByte s b

/-- The call stack and its pointer are unchanged. -/
def SameStack (s t : State) : Prop := t.stack = s.stack ∧ t.sp = s.sp

/-- The frame buffer and the redraw flag are unchanged. -/
def SameDisplay (s t : State) : Prop := t.fb = s.fb ∧ t.redraw = s.redraw

/-- The keys, the halted latch and the fault record are unchanged. -/
def SameKeysAndHalt (s t : State) : Prop := t.key = s.key ∧ t.halted = s.halted ∧ t.fault = s.fault

/-- Both timers went down by one, with a floor at 0 (40_cycle_engine.md R85). -/
def TimersTicked (s t : State) : Prop := t.dt.toNat = s.dt.toNat - 1 ∧ t.st.toNat = s.st.toNat - 1

/-- `pc` went on by one instruction width (10_state.md R15). -/
def AtNext (s t : State) : Prop := t.pc.toNat = (s.pc.toNat + 2) % 65536

/-- `pc` went on by two instruction widths (R15). -/
def AtSkip (s t : State) : Prop := t.pc.toNat = (s.pc.toNat + 4) % 65536

/-- A completed cycle that wrote nothing but the V registers of `P`, `pc` and the timers. -/
def OnlyRegs (P : RegIdx → Prop) (s t : State) : Prop :=
  SameRegsBut P s t ∧ t.index = s.index ∧ SameMemory s t ∧ SameStack s t ∧ SameDisplay s t ∧
    SameKeysAndHalt s t ∧ TimersTicked s t

/-- No V register. -/
def NoReg : RegIdx → Prop := fun _ => False

/-- A completed cycle that wrote nothing but memory, `pc` and the timers. -/
def OnlyMemory (s t : State) : Prop :=
  SameRegsBut NoReg s t ∧ t.index = s.index ∧ SameStack s t ∧ SameDisplay s t ∧ SameKeysAndHalt s t ∧
    TimersTicked s t

/-- A completed cycle that wrote nothing but `I`, `pc` and the timers. -/
def OnlyIndex (s t : State) : Prop :=
  SameRegsBut NoReg s t ∧ SameMemory s t ∧ SameStack s t ∧ SameDisplay s t ∧ SameKeysAndHalt s t ∧
    TimersTicked s t

/-- A completed cycle that wrote nothing but the call stack, its pointer, `pc` and the timers. -/
def OnlyStack (s t : State) : Prop :=
  SameRegsBut NoReg s t ∧ t.index = s.index ∧ SameMemory s t ∧ SameDisplay s t ∧ SameKeysAndHalt s t ∧
    TimersTicked s t

/-- A completed cycle that wrote nothing but the V registers of `P`, the frame buffer, the redraw flag, `pc` and the
timers. -/
def OnlyDisplay (P : RegIdx → Prop) (s t : State) : Prop :=
  SameRegsBut P s t ∧ t.index = s.index ∧ SameMemory s t ∧ SameStack s t ∧ SameKeysAndHalt s t ∧
    TimersTicked s t

/-! ## The access matrix and the table of `pc` forms -/

/-- The V registers an operation may write: its destination, the range of register-load, and VF for the six
operations that write a flag (10_state.md R12, R28). -/
def mayWriteReg : Instr → RegIdx → Prop
  | .clearScreen, _ => False
  | .ret, _ => False
  | .legacyCall _, _ => False
  | .jump _, _ => False
  | .call _, _ => False
  | .skipEqConst _ _, _ => False
  | .skipNeqConst _ _, _ => False
  | .skipEqReg _ _ _, _ => False
  | .setConst x _, r => r = x
  | .addConst x _, r => r = x
  | .assign x _, r => r = x
  | .orReg x _, r => r = x
  | .andReg x _, r => r = x
  | .xorReg x _, r => r = x
  | .addReg x _, r => r = x ∨ r = vf
  | .subReg x _, r => r = x ∨ r = vf
  | .shiftRight x _, r => r = x ∨ r = vf
  | .subReverse x _, r => r = x ∨ r = vf
  | .shiftLeft x _, r => r = x ∨ r = vf
  | .skipNeqReg _ _ _, _ => False
  | .setIndex _, _ => False
  | .jumpIndexed _, _ => False
  | .random x _, r => r = x
  | .drawSprite _ _ _, r => r = vf
  | .skipIfKeyPressed _, _ => False
  | .skipIfKeyNotPressed _, _ => False
  | .getDelayTimer x, r => r = x
  | .waitForKey x, r => r = x
  | .setDelayTimer _, _ => False
  | .setSoundTimer _, _ => False
  | .addToIndex _, _ => False
  | .spriteAddress _, _ => False
  | .bcdStore _, _ => False
  | .registerDump _, _ => False
  | .registerLoad x, r => r ≤ x

/-- The form in which an operation changes `pc` (10_state.md R15's table). -/
inductive PcForm where
  | advance
  | skipOrAdvance
  | target
  | advanceOrBlock
  deriving DecidableEq, Repr

/-- Which form each operation uses: 24, 6, 4 and 1 operations (R15). -/
def pcForm : Instr → PcForm
  | .clearScreen => .advance
  | .ret => .target
  | .legacyCall _ => .advance
  | .jump _ => .target
  | .call _ => .target
  | .skipEqConst _ _ => .skipOrAdvance
  | .skipNeqConst _ _ => .skipOrAdvance
  | .skipEqReg _ _ _ => .skipOrAdvance
  | .setConst _ _ => .advance
  | .addConst _ _ => .advance
  | .assign _ _ => .advance
  | .orReg _ _ => .advance
  | .andReg _ _ => .advance
  | .xorReg _ _ => .advance
  | .addReg _ _ => .advance
  | .subReg _ _ => .advance
  | .shiftRight _ _ => .advance
  | .subReverse _ _ => .advance
  | .shiftLeft _ _ => .advance
  | .skipNeqReg _ _ _ => .skipOrAdvance
  | .setIndex _ => .advance
  | .jumpIndexed _ => .target
  | .random _ _ => .advance
  | .drawSprite _ _ _ => .advance
  | .skipIfKeyPressed _ => .skipOrAdvance
  | .skipIfKeyNotPressed _ => .skipOrAdvance
  | .getDelayTimer _ => .advance
  | .waitForKey _ => .advanceOrBlock
  | .setDelayTimer _ => .advance
  | .setSoundTimer _ => .advance
  | .addToIndex _ => .advance
  | .spriteAddress _ => .advance
  | .bcdStore _ => .advance
  | .registerDump _ => .advance
  | .registerLoad _ => .advance

/-! ## Sprites -/

/-- Does the sprite of `n` rows at `I`, with its corner at column `x0`, row `y0`, have a set bit over the pixel in
column `px`, row `py`? Offsets are measured round the torus, bit 7 of a row byte is its leftmost pixel
(44_display.md R152). -/
def spriteCovers (s : State) (x0 y0 n px py : Nat) : Bool :=
  let dx := (px + 64 - x0 % 64) % 64
  let dy := (py + 32 - y0 % 32) % 32
  decide (dx < 8) && decide (dy < n) && (readByte s (s.index.toNat + dy)).getLsbD (7 - dx)

/-! ## Illegal words, halting and the invariants -/

/-- The 9808 words that encode nothing (30_encoding.md R67): the seven absent trailing nibbles of family 8, and the
absent trailing bytes of families E and F. -/
abbrev IllegalWord (w : Word) : Prop :=
  (w.toNat / 4096 = 0x8 ∧ w.toNat % 16 ∈ [0x8, 0x9, 0xA, 0xB, 0xC, 0xD, 0xF]) ∨
    (w.toNat / 4096 = 0xE ∧ w.toNat % 256 ∉ [0x9E, 0xA1]) ∨
    (w.toNat / 4096 = 0xF ∧ w.toNat % 256 ∉ [0x07, 0x0A, 0x15, 0x18, 0x1E, 0x29, 0x33, 0x55, 0x65])

/-- The core executes instructions: the latch is clear. A run is safe while this holds (60_exceptions.md R178: a
halted state is never a final state of a successful run). -/
abbrev Running (s : State) : Prop := s.halted = false

/-- The word at `pc` meets a fatal condition (60_exceptions.md R170, R175): no operation, a call on a full stack, or a
return on an empty one. -/
def MeetsFatal (s : State) : Prop :=
  (∃ r, decode (fetchWord s) = .error r) ∨
    (∃ nnn, decode (fetchWord s) = .ok (.call nnn) ∧ s.sp.val = 16) ∨
    (decode (fetchWord s) = .ok .ret ∧ s.sp.val = 0)

/-- The fault record tells the truth (10_state.md R23, R27 (c); 60_exceptions.md R170): nothing is recorded exactly
while the core runs, and a recorded cycle fault names the address `pc` still holds, a word that meets the condition, and
a condition that still holds. The word at that address is not claimed to be the recorded one: the host can load over it. -/
def RecordTrue (s : State) : Prop :=
  match s.fault.kind with
  | .none => s.halted = false ∧ s.fault = .empty
  | .invalidInstruction =>
    s.halted = true ∧ s.fault.addr = s.pc ∧ decode s.fault.word = .error (.noMatch s.fault.word)
  | .callStackOverflow =>
    s.halted = true ∧ s.fault.addr = s.pc ∧ s.sp.val = 16 ∧ opField s.fault.word = 0x2#4
  | .programTooLarge => s.halted = true ∧ s.fault.word = 0x0000#16 ∧ s.fault.addr = 0x0000#16
  | .stackUnderflow =>
    s.halted = true ∧ s.fault.addr = s.pc ∧ s.sp.val = 0 ∧ s.fault.word = 0x00EE#16

/-- The invariant: a true fault record, and memory in canonical form, which is the model's own (log entry 24). -/
def Inv (s : State) : Prop := s.mem.wf = true ∧ RecordTrue s

/-- `k` completed cycles lead from `s` to `t`, none of which sets the delay timer, blocks or faults
(70_reset_and_hazards.md R204). -/
inductive DelayRun (s : State) : Nat → State → Prop where
  | start : DelayRun s 0 s
  | next {k : Nat} {u t : State} {i : Instr} : DelayRun s k u → u.halted = false → decode (fetchWord u) = .ok i →
      (∀ x, i ≠ .setDelayTimer x) → (∀ x, i = .waitForKey x → ∃ key, keyDown u key = true) →
      step u = .next t → t.halted = false → DelayRun s (k + 1) t

/-- The states that cycles and host actions reach from reset, in any order (40_cycle_engine.md R89). -/
inductive Reachable : State → Prop where
  | reset : Reachable State.reset
  | cycle {s t : State} : Reachable s → step s = .next t → Reachable t
  | host {s : State} (a : HostAction) : Reachable s → Reachable (hostAct a s)

end Sys2Proof.Machine
end

