-- ==== Sys2Proof/Certificates/Slice0/Obligations.lean ====
section
/-! DEFINITION. The statements for the provers. Each docstring names the rule of spec/ it formalises, or the model's log
entry where a clause rests on a choice. -/

open Sys2Proof Sys2Proof.Machine

/-! ## Encoding -/

/-- 30_encoding.md R62, R65: the word of every well-formed instruction decodes to it, every operand kept, the ignored
bits among them (the model's own choice, log entry 23). The opcode numbers are log entry 3. -/
def Obligations.DecodeOfEncodeIsIdentity : Prop :=
  ∀ i : Instr, WellFormed i = true → decode (encode i) = .ok i

/-- R62, R65: a word that decodes is the word of what it decodes to, which is well-formed. With the statement before it,
words and instructions determine each other. That holds for words with ignored bits set because the model keeps those
bits as operands, which is its own choice (log entry 23). The opcode numbers are log entry 3. -/
def Obligations.EncodeOfDecodeIsIdentity : Prop :=
  ∀ (w : Word) (i : Instr), decode w = .ok i → encode i = w ∧ WellFormed i = true

/-- R67: a word decodes to no operation exactly when it is one of the listed illegal words. The selector values are log
entry 3. -/
def Obligations.NoMatchExactlyOnIllegalWords : Prop :=
  ∀ w : Word, decode w = .error (.noMatch w) ↔ IllegalWord w

/-- R64 against R65: the decoder's cases give the operation whose row of the mask and match table is the first that
selects the word, and none when no row does. -/
def Obligations.DecoderAgreesWithOpcodeMap : Prop :=
  ∀ w : Word, opcodeMapName w =
    match decode w with
    | .ok i => some (mnemonicOf i)
    | .error _ => none

/-- R65, 95_test_vectors.md T1 to T17: words of every family, written out from the spec's encodings. -/
def Obligations.SampleWordsDecodeAsEncoded : Prop :=
  decode 0x00E0 = .ok .clearScreen ∧ decode 0x00EE = .ok .ret ∧ decode 0x0123 = .ok (.legacyCall 0x123) ∧
  decode 0x2300 = .ok (.call 0x300) ∧ decode 0x3A42 = .ok (.skipEqConst 10 0x42) ∧
  decode 0x8127 = .ok (.subReverse 1 2) ∧ decode 0x8128 = .error (.noMatch 0x8128) ∧
  decode 0xA2F0 = .ok (.setIndex 0x2F0) ∧ decode 0xD125 = .ok (.drawSprite 1 2 5) ∧
  decode 0xE49E = .ok (.skipIfKeyPressed 4) ∧ decode 0xE09F = .error (.noMatch 0xE09F) ∧
  decode 0xF30A = .ok (.waitForKey 3) ∧ decode 0xF265 = .ok (.registerLoad 2)

/-- R68: the bits a legal encoding ignores have no effect (kept as operands by log entry 23). -/
def Obligations.IgnoredBitsHaveNoEffect : Prop :=
  ∀ (s : State) (x y : RegIdx) (n m : Nibble) (a b : Addr12) (u v : RegIdx),
    exec (.legacyCall a) s = exec (.legacyCall b) s ∧
    exec (.skipEqReg x y n) s = exec (.skipEqReg x y m) s ∧
    exec (.skipNeqReg x y n) s = exec (.skipNeqReg x y m) s ∧
    exec (.shiftRight x u) s = exec (.shiftRight x v) s ∧
    exec (.shiftLeft x u) s = exec (.shiftLeft x v) s

/-! ## The cycle -/

/-- 40_cycle_engine.md R81: while the core runs, a step is the decoded instruction's execution and nothing around it;
the timer phase is part of exec (log entry 19). -/
def Obligations.StepRunsDecodedInstruction : Prop :=
  ∀ (s : State) (i : Instr), Running s → decode (fetchWord s) = .ok i → step s = exec i s

/-- 20_memory.md R42: the word fetched has the byte at `pc` above the byte at `pc + 1`. -/
def Obligations.FetchIsBigEndian : Prop :=
  ∀ s : State, (fetchWord s).toNat =
    256 * (readByte s s.pc.toNat).toNat + (readByte s (s.pc.toNat + 1)).toNat

/-- The model's placing of a word (log entry 20) puts it where the next cycle fetches it, from every state, so that the
very next step runs it. -/
def Obligations.PlacedWordIsRunByTheNextStep : Prop :=
  ∀ (s : State) (w : Nat) (i : Instr), decodeTableWord 16 w = some i →
    step (s.withFetchWord 16 w) = exec i (s.withFetchWord 16 w)

/-- R87, 60_exceptions.md R171, R177: an illegal word at `pc` sets the latch and the record and changes nothing else
(decision D6, log entry 9; the illegal words are log entry 3). -/
def Obligations.IllegalWordHaltsWithRecord : Prop :=
  ∀ s : State, Running s → IllegalWord (fetchWord s) →
    step s = .next { s with halted := true, fault := ⟨.invalidInstruction, fetchWord s, s.pc⟩ }

/-- R88, 60_exceptions.md R178: any number of cycles leaves a halted core as it is (decision D6, log entry 9). -/
def Obligations.HaltedCoreIgnoresCycles : Prop :=
  ∀ (k : Nat) (s : State), s.halted = true → core.run k s = .next s

/-- R81: every cycle terminates with a next state, from every state; no step of the model is a fault or a refusal
(that a fatal condition is a next state is decision D6, log entry 9). -/
def Obligations.EveryCycleAnswersNextState : Prop :=
  ∀ s : State, ∃ t, step s = .next t

/-- 60_exceptions.md R177: faults are precise. A cycle that ends halted set the latch and the record, names the word and
its address, and changed nothing else (decision D6, log entry 9). -/
def Obligations.FaultingCyclesChangeOnlyLatchAndRecord : Prop :=
  ∀ s t : State, Running s → step s = .next t → t.halted = true →
    ∃ kind, kind ≠ .none ∧ kind ≠ .programTooLarge ∧
      t = { s with halted := true, fault := ⟨kind, fetchWord s, s.pc⟩ }

/-- 60_exceptions.md R175, R176: a cycle halts exactly on an illegal word, a call on a full stack or a return on an empty
one (the last is decision D5, log entry 8). -/
def Obligations.CycleHaltsExactlyOnFatalConditions : Prop :=
  ∀ s t : State, Running s → step s = .next t → (t.halted = true ↔ MeetsFatal s)

/-- 40_cycle_engine.md R85, R86, R87: a cycle at wait-for-key with no key pressed changes nothing, a halting cycle
leaves both timers, and every other cycle takes each timer down by one with a floor at 0, unless its operation sets that
timer (decisions D6, D11; log entries 9, 12). -/
def Obligations.TimerPhaseFollowsCompletedCyclesOnly : Prop :=
  ∀ s t : State, Running s → step s = .next t →
    (t.halted = true → t.dt = s.dt ∧ t.st = s.st) ∧
    (((∃ x, decode (fetchWord s) = .ok (.waitForKey x)) ∧ ∀ k, keyDown s k = false) → t = s) ∧
    (t.halted = false → ¬ ((∃ x, decode (fetchWord s) = .ok (.waitForKey x)) ∧ ∀ k, keyDown s k = false) →
      ((¬ ∃ x, decode (fetchWord s) = .ok (.setDelayTimer x)) → t.dt.toNat = s.dt.toNat - 1) ∧
      ((¬ ∃ x, decode (fetchWord s) = .ok (.setSoundTimer x)) → t.st.toNat = s.st.toNat - 1))

/-- 70_reset_and_hazards.md R204, an inference of the spec: over completed cycles that do not set it the delay
timer falls by one a cycle and stays at 0. -/
def Obligations.DelayTimerCountsCompletedCycles : Prop :=
  ∀ (s t : State) (k : Nat), DelayRun s k t → t.dt.toNat = s.dt.toNat - k

/-- 10_state.md R15: `pc` moves in the form the table gives the operation, once (width and wrap are decision D2, log entry
7). The targets are R103's, R104's and R109's, and return's is the entry below `SP` with nothing added (R102, 90_conflicts.md
C4, log entry 22). Only a call on a full stack (R172) or a return on an empty one (R173, decision D5, log entry 8)
leaves `pc` and halts (decision D6, log entry 9), and only wait-for-key can block (R163, decision D11, log entry 12). -/
def Obligations.PcMovesInItsTableForm : Prop :=
  ∀ (i : Instr) (s t : State), exec i s = .next t →
    match pcForm i with
    | .advance => AtNext s t
    | .skipOrAdvance => AtNext s t ∨ AtSkip s t
    | .target => (∃ nnn : Addr12, t.pc.toNat = nnn.toNat ∧ (i = .jump nnn ∨ (i = .call nnn ∧ s.sp.val < 16))) ∨
        (∃ nnn, i = .jumpIndexed nnn ∧ t.pc.toNat = nnn.toNat + (reg s 0).toNat) ∨
        (i = .ret ∧ ∃ k : Fin 16, k.val + 1 = s.sp.val ∧ t.pc = s.stack[k]) ∨
        (t.pc = s.pc ∧ t.halted = true ∧ ((i = .ret ∧ s.sp.val = 0) ∨ ∃ nnn, i = .call nnn ∧ s.sp.val = 16))
    | .advanceOrBlock => AtNext s t ∨ t = s

/-- 10_state.md R28, an inference of the spec: the access matrix. An operation changes no piece of
state that the matrix does not name for it. The matrix's row of the latch and the record is decision D6 (log entry 9), and
the count of draws is the model's own (log entry 1). For memory the clause says which operations store, as R28 does; where
they store is BcdStoreWritesThreeDigits and RegisterRangeDumpsAndLoads. -/
def Obligations.ExecWritesOnlyWhatTheAccessMatrixNames : Prop :=
  ∀ (i : Instr) (s t : State), exec i s = .next t →
    (∀ r, reg t r ≠ reg s r → mayWriteReg i r) ∧
    (∀ a, readByte t a ≠ readByte s a → ∃ x, i = .bcdStore x ∨ i = .registerDump x) ∧
    (t.index ≠ s.index → (∃ nnn, i = .setIndex nnn) ∨ ∃ x, i = .addToIndex x ∨ i = .spriteAddress x) ∧
    (t.stack ≠ s.stack → ∃ nnn, i = .call nnn) ∧
    (t.sp ≠ s.sp → i = .ret ∨ ∃ nnn, i = .call nnn) ∧
    (t.fb ≠ s.fb ∨ t.redraw ≠ s.redraw → i = .clearScreen ∨ ∃ x y n, i = .drawSprite x y n) ∧
    (t.halted ≠ s.halted ∨ t.fault ≠ s.fault → i = .ret ∨ ∃ nnn, i = .call nnn) ∧
    (t.draws ≠ s.draws → ∃ x nn, i = .random x nn) ∧
    t.key = s.key

/-! ## Invariants and reset -/

/-- 10_state.md R26, R27: the state after reset records no fault (log entry 15). That its memory is in canonical form is
about the model's own choice of form (log entry 24). -/
def Obligations.ResetMeetsInvariant : Prop := Inv State.reset

/-- R27, R23, R170: every step keeps a true fault record, from every state that has one (the record is decision D6, log
entry 9). That it keeps memory in canonical form is about the model's own choice of form (log entry 24). -/
def Obligations.EveryStepKeepsInvariant : Prop :=
  ∀ s t : State, Inv s → step s = .next t → Inv t

/-- 40_cycle_engine.md R89, R90: every host action keeps them too (log entries 16 and 17; the form of memory is log entry
24). -/
def Obligations.HostActionsKeepInvariant : Prop :=
  ∀ (s : State) (a : HostAction), Inv s → Inv (hostAct a s)

/-- 10_state.md R27: the invariant holds in every state that cycles and host actions reach from reset, in any order
(log entries 9, 16, 17; the form of memory is log entry 24). -/
def Obligations.ReachableStatesMeetInvariant : Prop :=
  ∀ s : State, Reachable s → Inv s

/-- 10_state.md R26, 70_reset_and_hazards.md R200: the values after reset. `I`, `SP`, `DT`, `ST`, `redraw`, `Key`, `halted`
and the record are decision D15 (log entry 15). The font stands at 0x050 to 0x09F; which bytes it has is not stated (log
entry 2). -/
def Obligations.ResetStateHasTabledValues : Prop :=
  (∀ a, (a % 4096 < 0x050 ∨ 0x09F < a % 4096) → readByte State.reset a = 0x00#8) ∧
  (fontRom.length = 80 ∧ ∀ k, (h : k < fontRom.length) → readByte State.reset (0x050 + k) = fontRom[k]) ∧
  (∀ r, reg State.reset r = 0x00#8) ∧ (∀ k : Fin 16, State.reset.stack[k] = 0x0000#16) ∧
  (∀ px py, pixel State.reset px py = false) ∧ State.reset.pc = 0x0200#16 ∧
  State.reset.index = 0x0000#16 ∧ State.reset.sp.val = 0 ∧ State.reset.dt = 0x00#8 ∧ State.reset.st = 0x00#8 ∧
  State.reset.redraw = false ∧ (∀ k, keyDown State.reset k = false) ∧ State.reset.halted = false ∧
  State.reset.fault = ⟨.none, 0x0000#16, 0x0000#16⟩

/-! ## The host -/

/-- 40_cycle_engine.md R90: an image that fits is copied verbatim to 0x200 upward and nothing else changes, on a
running core and on a halted one (decision D16; log entry 17). -/
def Obligations.LoadProgramCopiesVerbatim : Prop :=
  ∀ (image : List Byte) (s : State), image.length ≤ 3584 →
    (∀ k, (h : k < image.length) → readByte (hostAct (.loadProgram image) s) (0x200 + k) = image[k]) ∧
    (∀ a, a % 4096 < 0x200 ∨ 0x200 + image.length ≤ a % 4096 →
      readByte (hostAct (.loadProgram image) s) a = readByte s a) ∧
    ∃ m, hostAct (.loadProgram image) s = { s with mem := m }

/-- R90, 60_exceptions.md R174: an image that does not fit halts the core with its record and loads nothing (decision
D16), on a running core and on a halted one (log entry 17). -/
def Obligations.LoadProgramTooLargeHalts : Prop :=
  ∀ (image : List Byte) (s : State), 3584 < image.length →
    hostAct (.loadProgram image) s =
      { s with halted := true, fault := ⟨.programTooLarge, 0x0000#16, 0x0000#16⟩ }

/-- 70_reset_and_hazards.md R201, R202: after Reset and LoadProgram the first cycle runs the image's first word. -/
def Obligations.FirstCycleRunsFirstLoadedWord : Prop :=
  ∀ (s : State) (hi lo : Byte) (rest : List Byte) (i : Instr), rest.length ≤ 3582 →
    decode (hi ++ lo) = .ok i →
    step (hostAct (.loadProgram (hi :: lo :: rest)) (hostAct .reset s)) =
      exec i (hostAct (.loadProgram (hi :: lo :: rest)) (hostAct .reset s))

/-- R89, R90: SetKeys replaces the sixteen flags, AckRedraw clears the redraw flag, LoadProgram of any image writes memory,
the latch and the record at most, and each changes nothing else; none of the three clears the latch. All this on a
halted core too (log entry 17). Reset gives the reset state (the draws go on, log entry 18). -/
def Obligations.HostActionsChangeOnlyTheirPart : Prop :=
  ∀ (s : State) (keys : Vector Bool 16) (image : List Byte),
    hostAct (.setKeys keys) s = { s with key := keys } ∧
    hostAct .ackRedraw s = { s with redraw := false } ∧
    (∃ m h f, hostAct (.loadProgram image) s = { s with mem := m, halted := h, fault := f } ∧
      (s.halted = true → h = true)) ∧
    hostAct .reset s = { State.reset with draws := s.draws }

/-- 10_state.md R27 (d), as far as R89 and R90 leave it: once halted, a cycle changes nothing, and no host action but Reset
changes anything beyond what that action itself writes; the latch stays (the reading is log entry 17). -/
def Obligations.HaltedCoreKeepsAllButHostInputs : Prop :=
  ∀ s : State, s.halted = true → step s = .next s ∧
    (∀ keys, hostAct (.setKeys keys) s = { s with key := keys }) ∧
    hostAct .ackRedraw s = { s with redraw := false } ∧
    (∀ image : List Byte, image.length ≤ 3584 → ∃ m, hostAct (.loadProgram image) s = { s with mem := m }) ∧
    (∀ image : List Byte, 3584 < image.length →
      hostAct (.loadProgram image) s = { s with fault := ⟨.programTooLarge, 0x0000#16, 0x0000#16⟩ })

/-! ## Control transfer -/

/-- 41_control_transfer.md R103. -/
def Obligations.JumpSetsPcToItsAddress : Prop :=
  ∀ (nnn : Addr12) (s : State), ∃ t, exec (.jump nnn) s = .next t ∧ t.pc.toNat = nnn.toNat ∧ OnlyRegs NoReg s t

/-- R104, 60_exceptions.md R172, R177: a call pushes its own address and goes to `nnn`; on a full stack it raises
CallStackOverflow with its own word and address and changes nothing else (decision D6, log entry 9). -/
def Obligations.CallPushesItsOwnAddressOrOverflows : Prop :=
  ∀ (nnn : Addr12) (s : State),
    (s.sp.val < 16 → ∃ t, exec (.call nnn) s = .next t ∧ t.pc.toNat = nnn.toNat ∧ t.sp.val = s.sp.val + 1 ∧
      (∀ k : Fin 16, t.stack[k] = if k.val = s.sp.val then s.pc else s.stack[k]) ∧ OnlyStack s t) ∧
    (s.sp.val = 16 → exec (.call nnn) s = .next { s with
      halted := true, fault := ⟨.callStackOverflow, BitVec.ofNat 16 (0x2000 + nnn.toNat), s.pc⟩ })

/-- R102, R173: return pops exactly the entry below `SP` and adds nothing to it (90_conflicts.md C4, log entry 22); on an
empty stack it raises StackUnderflow (decision D5, log entry 8). -/
def Obligations.ReturnPopsOrUnderflows : Prop :=
  ∀ s : State,
    (0 < s.sp.val → ∃ t, exec .ret s = .next t ∧ t.sp.val + 1 = s.sp.val ∧ t.stack = s.stack ∧
      (∀ k : Fin 16, k.val + 1 = s.sp.val → t.pc = s.stack[k]) ∧ OnlyStack s t) ∧
    (s.sp.val = 0 → exec .ret s = .next { s with
      halted := true, fault := ⟨.stackUnderflow, 0x00EE#16, s.pc⟩ })

/-- 70_reset_and_hazards.md R203: a call followed by a return comes back to the call itself, the pointer at its prior
value (90_conflicts.md C4, log entry 22). -/
def Obligations.CallThenReturnLandsOnTheCall : Prop :=
  ∀ (nnn : Addr12) (s : State), s.sp.val < 16 →
    ∃ t u, exec (.call nnn) s = .next t ∧ exec .ret t = .next u ∧ u.pc = s.pc ∧ u.sp = s.sp

/-- 41_control_transfer.md R105, R106. -/
def Obligations.SkipsOnConstantFollowTheComparison : Prop :=
  ∀ (x : RegIdx) (nn : Byte) (s : State),
    (∃ t, exec (.skipEqConst x nn) s = .next t ∧ (if reg s x = nn then AtSkip s t else AtNext s t) ∧
      OnlyRegs NoReg s t) ∧
    (∃ t, exec (.skipNeqConst x nn) s = .next t ∧ (if reg s x = nn then AtNext s t else AtSkip s t) ∧
      OnlyRegs NoReg s t)

/-- R107, R108: for every value of the ignored nibble. -/
def Obligations.SkipsOnRegistersFollowTheComparison : Prop :=
  ∀ (x y : RegIdx) (n : Nibble) (s : State),
    (∃ t, exec (.skipEqReg x y n) s = .next t ∧ (if reg s x = reg s y then AtSkip s t else AtNext s t) ∧
      OnlyRegs NoReg s t) ∧
    (∃ t, exec (.skipNeqReg x y n) s = .next t ∧ (if reg s x = reg s y then AtNext s t else AtSkip s t) ∧
      OnlyRegs NoReg s t)

/-- R109, R101: jump-indexed goes to the exact sum, which never wraps (decision D2, log entry 7); legacy-call only
advances (decision D14, log entry 14). -/
def Obligations.JumpIndexedAndLegacyCallMovePc : Prop :=
  ∀ (nnn : Addr12) (s : State),
    (∃ t, exec (.jumpIndexed nnn) s = .next t ∧ t.pc.toNat = nnn.toNat + (reg s 0).toNat ∧ OnlyRegs NoReg s t) ∧
    (∃ t, exec (.legacyCall nnn) s = .next t ∧ AtNext s t ∧ OnlyRegs NoReg s t)

/-- 40_cycle_engine.md R93, an inference of the spec: a jump to its own address changes nothing but the timers, which
count down. -/
def Obligations.SpinJumpChangesOnlyTimers : Prop :=
  ∀ (nnn : Addr12) (s : State), Running s → decode (fetchWord s) = .ok (.jump nnn) → s.pc.toNat = nnn.toNat →
    ∃ dt st, step s = .next { s with dt := dt, st := st } ∧
      dt.toNat = s.dt.toNat - 1 ∧ st.toNat = s.st.toNat - 1

/-! ## Register and ALU operations -/

/-- 42_alu.md R122, R123: no flag is written; VF changes only as the destination. -/
def Obligations.ConstantsAreSetAndAdded : Prop :=
  ∀ (x : RegIdx) (nn : Byte) (s : State),
    (∃ t, exec (.setConst x nn) s = .next t ∧ reg t x = nn ∧ AtNext s t ∧ OnlyRegs (fun r => r = x) s t) ∧
    (∃ t, exec (.addConst x nn) s = .next t ∧ (reg t x).toNat = ((reg s x).toNat + nn.toNat) % 256 ∧ AtNext s t ∧
      OnlyRegs (fun r => r = x) s t)

/-- R124, R125, R126, R127: each of the eight bits by itself, no flag written. -/
def Obligations.AssignAndBitwiseOperationsActOnEachBit : Prop :=
  ∀ (x y : RegIdx) (s : State),
    (∃ t, exec (.assign x y) s = .next t ∧ reg t x = reg s y ∧ AtNext s t ∧ OnlyRegs (fun r => r = x) s t) ∧
    (∃ t, exec (.orReg x y) s = .next t ∧
      (∀ k, (reg t x).getLsbD k = ((reg s x).getLsbD k || (reg s y).getLsbD k)) ∧ AtNext s t ∧
      OnlyRegs (fun r => r = x) s t) ∧
    (∃ t, exec (.andReg x y) s = .next t ∧
      (∀ k, (reg t x).getLsbD k = ((reg s x).getLsbD k && (reg s y).getLsbD k)) ∧ AtNext s t ∧
      OnlyRegs (fun r => r = x) s t) ∧
    (∃ t, exec (.xorReg x y) s = .next t ∧
      (∀ k, (reg t x).getLsbD k = ((reg s x).getLsbD k != (reg s y).getLsbD k)) ∧ AtNext s t ∧
      OnlyRegs (fun r => r = x) s t)

/-- R128, R120: the sum modulo 256 and the carry; when the destination is VF it ends with the carry (decision D7, log
entry 10). -/
def Obligations.AddRegGivesSumAndCarry : Prop :=
  ∀ (x y : RegIdx) (s : State), ∃ t, exec (.addReg x y) s = .next t ∧
    (x ≠ 15 → (reg t x).toNat = ((reg s x).toNat + (reg s y).toNat) % 256) ∧
    (reg t 15).toNat = ((reg s x).toNat + (reg s y).toNat) / 256 ∧
    AtNext s t ∧ OnlyRegs (fun r => r = x ∨ r = 15) s t

/-- R129, R131, R120: the differences modulo 256 and the NOT-borrow flag, which is what VF holds when it is the
destination (decision D7, log entry 10). sub-reverse is the spec's general knowledge (log entry 4). -/
def Obligations.SubtractionsGiveDifferenceAndNotBorrow : Prop :=
  ∀ (x y : RegIdx) (s : State),
    (∃ t, exec (.subReg x y) s = .next t ∧
      (x ≠ 15 → (reg t x).toNat = ((reg s x).toNat + 256 - (reg s y).toNat) % 256) ∧
      (reg t 15).toNat = (if (reg s y).toNat ≤ (reg s x).toNat then 1 else 0) ∧
      AtNext s t ∧ OnlyRegs (fun r => r = x ∨ r = 15) s t) ∧
    (∃ t, exec (.subReverse x y) s = .next t ∧
      (x ≠ 15 → (reg t x).toNat = ((reg s y).toNat + 256 - (reg s x).toNat) % 256) ∧
      (reg t 15).toNat = (if (reg s x).toNat ≤ (reg s y).toNat then 1 else 0) ∧
      AtNext s t ∧ OnlyRegs (fun r => r = x ∨ r = 15) s t)

/-- R130, R132, R120: one position, the vacated bit 0, the bit shifted out in VF, which wins when it is the destination
(decision D7, log entry 10). -/
def Obligations.ShiftsMoveOneBitIntoVF : Prop :=
  ∀ (x y : RegIdx) (s : State),
    (∃ t, exec (.shiftRight x y) s = .next t ∧ (x ≠ 15 → (reg t x).toNat = (reg s x).toNat / 2) ∧
      (reg t 15).toNat = (reg s x).toNat % 2 ∧ AtNext s t ∧ OnlyRegs (fun r => r = x ∨ r = 15) s t) ∧
    (∃ t, exec (.shiftLeft x y) s = .next t ∧ (x ≠ 15 → (reg t x).toNat = (reg s x).toNat * 2 % 256) ∧
      (reg t 15).toNat = (reg s x).toNat / 128 ∧ AtNext s t ∧ OnlyRegs (fun r => r = x ∨ r = 15) s t)

/-- R133, 40_cycle_engine.md R94: the draw masked with `nn`, whatever the draw is: bits clear in `nn` are clear in the
result. The draw is the free value that `draws` names, and the next draw is another one (decision D12, log entry 1). -/
def Obligations.RandomMasksTheFreeDraw : Prop :=
  ∀ (x : RegIdx) (nn : Byte) (s : State), ∃ t, exec (.random x nn) s = .next t ∧
    (∀ k, (reg t x).getLsbD k = ((Config.freeRandomByte s.draws).getLsbD k && nn.getLsbD k)) ∧
    (nn = 0x00#8 → reg t x = 0x00#8) ∧ t.draws = s.draws + 1 ∧ AtNext s t ∧ OnlyRegs (fun r => r = x) s t

/-! ## Index register and memory -/

/-- 43_index_memory.md R141. -/
def Obligations.SetIndexLoadsItsAddress : Prop :=
  ∀ (nnn : Addr12) (s : State), ∃ t, exec (.setIndex nnn) s = .next t ∧ t.index.toNat = nnn.toNat ∧
    AtNext s t ∧ OnlyIndex s t

/-- R142, R143: the sum modulo 65536 with no flag (decision D8), and the address of the glyph of the low nibble (decision
D9); log entry 11. -/
def Obligations.IndexAdditionAndGlyphAddress : Prop :=
  ∀ (x : RegIdx) (s : State),
    (∃ t, exec (.addToIndex x) s = .next t ∧ t.index.toNat = (s.index.toNat + (reg s x).toNat) % 65536 ∧
      AtNext s t ∧ OnlyIndex s t) ∧
    (∃ t, exec (.spriteAddress x) s = .next t ∧ t.index.toNat = 0x050 + 5 * ((reg s x).toNat % 16) ∧
      AtNext s t ∧ OnlyIndex s t)

/-- R144: the three decimal digits at `I`, `I + 1`, `I + 2`, each address reduced by itself, and no other byte. -/
def Obligations.BcdStoreWritesThreeDigits : Prop :=
  ∀ (x : RegIdx) (s : State), ∃ t, exec (.bcdStore x) s = .next t ∧
    (readByte t (indexedAddr s 0)).toNat = (reg s x).toNat / 100 ∧
    (readByte t (indexedAddr s 1)).toNat = (reg s x).toNat / 10 % 10 ∧
    (readByte t (indexedAddr s 2)).toNat = (reg s x).toNat % 10 ∧
    SameMemoryBut (indexedAddr s 0) 3 s t ∧ AtNext s t ∧ OnlyMemory s t

/-- R145, R146: the range `V[0..x]` goes to and comes from the bytes at `I` upward, and a load after a dump from the same
`I` recovers the registers, whatever was done to them between. -/
def Obligations.RegisterRangeDumpsAndLoads : Prop :=
  ∀ (x : RegIdx) (s : State),
    (∃ t, exec (.registerDump x) s = .next t ∧ (∀ r, r ≤ x → readByte t (indexedAddr s r.val) = reg s r) ∧
      SameMemoryBut (indexedAddr s 0) (x.val + 1) s t ∧ AtNext s t ∧ OnlyMemory s t ∧
      ∀ u : State, u.index = s.index → SameMemory t u →
        ∃ w, exec (.registerLoad x) u = .next w ∧ ∀ r, r ≤ x → reg w r = reg s r) ∧
    (∃ t, exec (.registerLoad x) s = .next t ∧ (∀ r, r ≤ x → reg t r = readByte s (indexedAddr s r.val)) ∧
      AtNext s t ∧ OnlyRegs (fun r => r ≤ x) s t)

/-- 20_memory.md R53, 70_reset_and_hazards.md R207, inferences of the spec: what a register-dump stores over
the next instruction is the word the next cycle fetches. -/
def Obligations.StoredWordIsFetchedByNextCycle : Prop :=
  ∀ (x : RegIdx) (s t : State), 1 ≤ x.val → (s.pc.toNat + 2) % 4096 = s.index.toNat % 4096 →
    exec (.registerDump x) s = .next t → fetchWord t = reg s 0 ++ reg s 1

/-! ## Display -/

/-- 44_display.md R151: every pixel unset, redraw set, VF not touched. -/
def Obligations.ClearScreenUnsetsEveryPixel : Prop :=
  ∀ s : State, ∃ t, exec .clearScreen s = .next t ∧ (∀ px py, pixel t px py = false) ∧ t.redraw = true ∧
    AtNext s t ∧ OnlyDisplay NoReg s t

/-- R152, R150: every pixel is flipped exactly when the sprite has a set bit over it, and VF tells whether some pixel went
from set to unset. Wrap, start beyond the grid and height 0 are decision D13 (log entry 13), the bit order is log entry
5. -/
def Obligations.DrawSpriteFlipsCoveredPixels : Prop :=
  ∀ (x y : RegIdx) (n : Nibble) (s : State), ∃ t, exec (.drawSprite x y n) s = .next t ∧
    (∀ px py, px < 64 → py < 32 →
      pixel t px py = (pixel s px py != spriteCovers s (reg s x).toNat (reg s y).toNat n.toNat px py)) ∧
    ((∃ px py, px < 64 ∧ py < 32 ∧ pixel s px py = true ∧ pixel t px py = false) → reg t 15 = 0x01#8) ∧
    ((∀ px py, px < 64 → py < 32 → pixel s px py = true → pixel t px py = true) → reg t 15 = 0x00#8) ∧
    t.redraw = true ∧ AtNext s t ∧ OnlyDisplay (fun r => r = 15) s t

/-- R152: the same sprite drawn twice at the same place restores the frame buffer (decision D13, log entry 13); a
coordinate in VF would be lost between the two, so neither is. -/
def Obligations.DrawingTwiceRestoresTheFrame : Prop :=
  ∀ (x y : RegIdx) (n : Nibble) (s : State), x ≠ 15 → y ≠ 15 →
    ∃ t u, exec (.drawSprite x y n) s = .next t ∧ exec (.drawSprite x y n) t = .next u ∧ u.fb = s.fb

/-- R153: redraw is set by every cycle of a display operation and by no other cycle, no instruction clears or reads it,
and the host reads and clears it (on a halted core too: log entry 17). -/
def Obligations.RedrawIsSetByDisplayOperationsOnly : Prop :=
  (∀ s t : State, Running s → step s = .next t →
    ((decode (fetchWord s) = .ok .clearScreen ∨ ∃ x y n, decode (fetchWord s) = .ok (.drawSprite x y n)) →
      t.redraw = true) ∧
    (¬ (decode (fetchWord s) = .ok .clearScreen ∨ ∃ x y n, decode (fetchWord s) = .ok (.drawSprite x y n)) →
      t.redraw = s.redraw)) ∧
  (∀ (i : Instr) (s t : State) (b : Bool), exec i s = .next t →
    ∃ c, exec i { s with redraw := b } = .next { t with redraw := c }) ∧
  (∀ s : State, (hostAct .ackRedraw s).redraw = false ∧ hostReadRedraw s = s.redraw)

/-! ## Keys and timers -/

/-- 45_keys_timers.md R161, R162, R160: the key is the low nibble of the register (decision D10, log entry 11). -/
def Obligations.KeySkipsFollowTheKeyFlag : Prop :=
  ∀ (x k : RegIdx) (s : State), (reg s x).toNat % 16 = k.val →
    (∃ t, exec (.skipIfKeyPressed x) s = .next t ∧ (if keyDown s k = true then AtSkip s t else AtNext s t) ∧
      OnlyRegs NoReg s t) ∧
    (∃ t, exec (.skipIfKeyNotPressed x) s = .next t ∧ (if keyDown s k = true then AtNext s t else AtSkip s t) ∧
      OnlyRegs NoReg s t)

/-- R163: with no key pressed wait-for-key leaves every piece of state as it is (decision D11, log entry 12). -/
def Obligations.WaitForKeyBlocksWithoutAKey : Prop :=
  ∀ (x : RegIdx) (s : State), (∀ k, keyDown s k = false) → exec (.waitForKey x) s = .next s

/-- R163: with keys pressed it takes the least one, in an ordinary completed cycle (decision D11, log entry 12). -/
def Obligations.WaitForKeyTakesTheLeastKey : Prop :=
  ∀ (x k : RegIdx) (s : State), keyDown s k = true → (∀ j, j < k → keyDown s j = false) →
    ∃ t, exec (.waitForKey x) s = .next t ∧ (reg t x).toNat = k.val ∧ AtNext s t ∧ OnlyRegs (fun r => r = x) s t

/-- R164, R165, R166: get reads the timer before the cycle's timer phase, and a timer that is set goes down in the cycle
that sets it. -/
def Obligations.TimerOperationsMoveTimerValues : Prop :=
  ∀ (x : RegIdx) (s : State),
    (∃ t, exec (.getDelayTimer x) s = .next t ∧ reg t x = s.dt ∧ AtNext s t ∧ OnlyRegs (fun r => r = x) s t) ∧
    (∃ t, exec (.setDelayTimer x) s = .next t ∧ t.dt.toNat = (reg s x).toNat - 1 ∧ t.st.toNat = s.st.toNat - 1 ∧
      AtNext s t ∧ SameRegsBut NoReg s t ∧ t.index = s.index ∧ SameMemory s t ∧ SameStack s t ∧
      SameDisplay s t ∧ SameKeysAndHalt s t) ∧
    (∃ t, exec (.setSoundTimer x) s = .next t ∧ t.st.toNat = (reg s x).toNat - 1 ∧ t.dt.toNat = s.dt.toNat - 1 ∧
      AtNext s t ∧ SameRegsBut NoReg s t ∧ t.index = s.index ∧ SameMemory s t ∧ SameStack s t ∧
      SameDisplay s t ∧ SameKeysAndHalt s t)

/-! ## Isolation -/

/-- 10_state.md R18, R20, 45_keys_timers.md R166: the sound timer and the redraw flag have no effect on anything but
themselves: two states that differ only in them step to states that differ only in them. -/
def Obligations.SoundTimerAndRedrawReachNothingElse : Prop :=
  ∀ (s t : State) (st : Byte) (redraw : Bool), step s = .next t →
    ∃ (st' : Byte) (redraw' : Bool),
      step { s with st := st, redraw := redraw } = .next { t with st := st', redraw := redraw' }

/-- 45_keys_timers.md and 10_state.md R28: the keys reach the machine through the three key operations alone: a cycle of
any other operation is the same whatever is pressed. -/
def Obligations.KeysReachOnlyKeyOperations : Prop :=
  ∀ (i : Instr) (s t : State) (keys : Vector Bool 16),
    (∀ x, i ≠ .skipIfKeyPressed x ∧ i ≠ .skipIfKeyNotPressed x ∧ i ≠ .waitForKey x) →
    exec i s = .next t → exec i { s with key := keys } = .next { t with key := keys }
end

