-- ==== Sys2Proof/Laws/Decode.lean ====
section
/-! SUPPORT. The fields of the words the encoder builds (30_encoding.md R61, R62), and the words as numbers. -/

namespace Sys2Proof

@[simp] theorem regNibble_toFin (r : RegIdx) : (regNibble r).toFin = r := rfl

@[simp] theorem regNibble_of_toFin (n : Nibble) : regNibble n.toFin = n := rfl

theorem regNibble_toNat (r : RegIdx) : (regNibble r).toNat = r.val := rfl

/-! ## Format ADDR: `op nnn` -/

theorem wordAddr_toNat (op : Nibble) (a : Addr12) : (wordAddr op a).toNat = op.toNat * 4096 + a.toNat := by
  have := a.isLt
  simp only [wordAddr, BitVec.toNat_append, Nat.shiftLeft_eq]
  rw [Nat.mul_comm, ← Nat.two_pow_add_eq_or_of_lt this]

@[simp] theorem opField_wordAddr (op : Nibble) (a : Addr12) : opField (wordAddr op a) = op := by
  apply BitVec.eq_of_toNat_eq
  have := a.isLt
  have := op.isLt
  simp only [opField, BitVec.extractLsb'_toNat, wordAddr_toNat, Nat.shiftRight_eq_div_pow]
  omega

@[simp] theorem nnnField_wordAddr (op : Nibble) (a : Addr12) : nnnField (wordAddr op a) = a := by
  apply BitVec.eq_of_toNat_eq
  have := a.isLt
  simp only [nnnField, BitVec.extractLsb'_toNat, wordAddr_toNat, Nat.shiftRight_eq_div_pow]
  omega

/-! ## Formats XNN and XKK: `op x nn` -/

theorem wordXnn_toNat (op : Nibble) (x : RegIdx) (nn : Byte) :
    (wordXnn op x nn).toNat = op.toNat * 4096 + x.val * 256 + nn.toNat := by
  have h1 := nn.isLt
  have h2 := (regNibble x).isLt
  simp only [wordXnn, BitVec.toNat_append, Nat.shiftLeft_eq]
  rw [Nat.mul_comm op.toNat, ← Nat.two_pow_add_eq_or_of_lt h2, Nat.mul_comm _ (2 ^ 8),
    ← Nat.two_pow_add_eq_or_of_lt h1, regNibble_toNat]
  omega

@[simp] theorem opField_wordXnn (op : Nibble) (x : RegIdx) (nn : Byte) : opField (wordXnn op x nn) = op := by
  apply BitVec.eq_of_toNat_eq
  have := nn.isLt
  have := op.isLt
  simp only [opField, BitVec.extractLsb'_toNat, wordXnn_toNat, Nat.shiftRight_eq_div_pow]
  omega

@[simp] theorem xField_wordXnn (op : Nibble) (x : RegIdx) (nn : Byte) : xField (wordXnn op x nn) = x := by
  apply Fin.ext
  have := nn.isLt
  simp only [xField, BitVec.val_toFin, BitVec.extractLsb'_toNat, wordXnn_toNat, Nat.shiftRight_eq_div_pow]
  omega

@[simp] theorem nnField_wordXnn (op : Nibble) (x : RegIdx) (nn : Byte) : nnField (wordXnn op x nn) = nn := by
  apply BitVec.eq_of_toNat_eq
  have := nn.isLt
  simp only [nnField, BitVec.extractLsb'_toNat, wordXnn_toNat, Nat.shiftRight_eq_div_pow]
  omega

/-! ## Formats XY, XYK and XYN: `op x y n` -/

theorem wordXyn_toNat (op : Nibble) (x y : RegIdx) (n : Nibble) :
    (wordXyn op x y n).toNat = op.toNat * 4096 + x.val * 256 + y.val * 16 + n.toNat := by
  have h1 := n.isLt
  have h2 := (regNibble x).isLt
  have h3 := (regNibble y).isLt
  simp only [wordXyn, BitVec.toNat_append, Nat.shiftLeft_eq]
  rw [Nat.mul_comm op.toNat, ← Nat.two_pow_add_eq_or_of_lt h2, Nat.mul_comm (2 ^ 4 * op.toNat + _),
    ← Nat.two_pow_add_eq_or_of_lt h3, Nat.mul_comm _ (2 ^ 4), ← Nat.two_pow_add_eq_or_of_lt h1,
    regNibble_toNat, regNibble_toNat]
  omega

@[simp] theorem opField_wordXyn (op : Nibble) (x y : RegIdx) (n : Nibble) : opField (wordXyn op x y n) = op := by
  apply BitVec.eq_of_toNat_eq
  have := n.isLt
  have := op.isLt
  simp only [opField, BitVec.extractLsb'_toNat, wordXyn_toNat, Nat.shiftRight_eq_div_pow]
  omega

@[simp] theorem xField_wordXyn (op : Nibble) (x y : RegIdx) (n : Nibble) : xField (wordXyn op x y n) = x := by
  apply Fin.ext
  have := n.isLt
  simp only [xField, BitVec.val_toFin, BitVec.extractLsb'_toNat, wordXyn_toNat, Nat.shiftRight_eq_div_pow]
  omega

@[simp] theorem yField_wordXyn (op : Nibble) (x y : RegIdx) (n : Nibble) : yField (wordXyn op x y n) = y := by
  apply Fin.ext
  have := n.isLt
  simp only [yField, BitVec.val_toFin, BitVec.extractLsb'_toNat, wordXyn_toNat, Nat.shiftRight_eq_div_pow]
  omega

@[simp] theorem nField_wordXyn (op : Nibble) (x y : RegIdx) (n : Nibble) : nField (wordXyn op x y n) = n := by
  apply BitVec.eq_of_toNat_eq
  have := n.isLt
  simp only [nField, BitVec.extractLsb'_toNat, wordXyn_toNat, Nat.shiftRight_eq_div_pow]
  omega

/-! ## Masks: what the fixed bits of a format are -/

theorem wordAddr_maskF000 (op : Nibble) (a : Addr12) : wordAddr op a &&& 0xF000 = wordAddr op 0 := by
  apply BitVec.eq_of_getLsbD_eq
  intro i hi
  simp only [wordAddr, BitVec.getLsbD_and, BitVec.getLsbD_append]
  interval_cases i <;> simp

theorem wordXnn_maskF000 (op : Nibble) (x : RegIdx) (nn : Byte) : wordXnn op x nn &&& 0xF000 = wordXnn op 0 0 := by
  apply BitVec.eq_of_getLsbD_eq
  intro i hi
  simp only [wordXnn, BitVec.getLsbD_and, BitVec.getLsbD_append]
  interval_cases i <;> simp [regNibble]

theorem wordXnn_maskF0FF (op : Nibble) (x : RegIdx) (nn : Byte) : wordXnn op x nn &&& 0xF0FF = wordXnn op 0 nn := by
  apply BitVec.eq_of_getLsbD_eq
  intro i hi
  simp only [wordXnn, BitVec.getLsbD_and, BitVec.getLsbD_append]
  interval_cases i <;> simp [regNibble]

theorem wordXyn_maskF000 (op : Nibble) (x y : RegIdx) (n : Nibble) : wordXyn op x y n &&& 0xF000 = wordXyn op 0 0 0 := by
  apply BitVec.eq_of_getLsbD_eq
  intro i hi
  simp only [wordXyn, BitVec.getLsbD_and, BitVec.getLsbD_append]
  interval_cases i <;> simp [regNibble]

theorem wordXyn_maskF00F (op : Nibble) (x y : RegIdx) (n : Nibble) : wordXyn op x y n &&& 0xF00F = wordXyn op 0 0 n := by
  apply BitVec.eq_of_getLsbD_eq
  intro i hi
  simp only [wordXyn, BitVec.getLsbD_and, BitVec.getLsbD_append]
  interval_cases i <;> simp [regNibble]

/-! ## A word is its fields -/

theorem opField_toNat (w : Word) : (opField w).toNat = w.toNat / 4096 := by
  have := w.isLt
  simp only [opField, BitVec.extractLsb'_toNat, Nat.shiftRight_eq_div_pow]
  omega

theorem wordAddr_fields (w : Word) : wordAddr (opField w) (nnnField w) = w := by
  apply BitVec.eq_of_toNat_eq
  simp only [wordAddr_toNat, opField_toNat, nnnField, BitVec.extractLsb'_toNat, Nat.shiftRight_eq_div_pow]
  omega

theorem wordXnn_fields (w : Word) : wordXnn (opField w) (xField w) (nnField w) = w := by
  apply BitVec.eq_of_toNat_eq
  simp only [wordXnn_toNat, opField_toNat, xField, nnField, BitVec.val_toFin, BitVec.extractLsb'_toNat,
    Nat.shiftRight_eq_div_pow]
  omega

theorem wordXyn_fields (w : Word) : wordXyn (opField w) (xField w) (yField w) (nField w) = w := by
  apply BitVec.eq_of_toNat_eq
  simp only [wordXyn_toNat, opField_toNat, xField, yField, nField, BitVec.val_toFin, BitVec.extractLsb'_toNat,
    Nat.shiftRight_eq_div_pow]
  omega

theorem ite_error {c : Prop} [Decidable c] {a b : Except Reject Instr} {r : Reject} {P : Prop}
    (ha : a = .error r → P) (hb : b = .error r → P) : (if c then a else b) = .error r → P := by
  split
  · exact ha
  · exact hb

theorem ok_error {i : Instr} {r : Reject} {P : Prop} (h : (.ok i : Except Reject Instr) = .error r) : P := by
  cases h

theorem noMatch_error {w : Word} {r : Reject} (h : (.error (.noMatch w) : Except Reject Instr) = .error r) :
    r = .noMatch w := by
  cases h; rfl

/-- The decoder rejects a word only as one that matches nothing (30_encoding.md R64). -/
theorem decode_error {w : Word} {r : Reject} : decode w = .error r → r = .noMatch w := by
  unfold decode decodeFamily0 decodeFamily8 decodeFamilyE decodeFamilyF
  repeat' apply ite_error
  all_goals first | exact ok_error | exact noMatch_error

end Sys2Proof
end

