-- ==== Sys2Proof/Laws/Memory.lean ====
section
/-! SUPPORT. The laws of memory: a read after a write, and that every memory operation keeps the canonical form. -/

namespace Sys2Proof.Machine

/-! ## Reads after writes -/

/-- The reset contents with the numbers written out (10_state.md R26). -/
theorem unlisted_eq (a : Nat) : unlisted a = if 0x050 ≤ a then fontRom.getD (a - 0x050) 0x00#8 else 0x00#8 := rfl

theorem memRead_eq (m : Memory) (a : Nat) : memRead m a = lookup m (a % 4096) := rfl

theorem lookup_eraseCell_same (m : Memory) (a : Nat) : lookup (eraseCell m a) a = unlisted a := by
  induction m with
  | nil => rfl
  | cons cell rest ih =>
    obtain ⟨k, c⟩ := cell
    by_cases h : k = a
    · simpa [eraseCell, h] using ih
    · have : ¬ a = k := fun e => h e.symm
      simpa [eraseCell, h, lookup, this] using ih

theorem lookup_eraseCell_other (m : Memory) {a b : Nat} (hab : b ≠ a) :
    lookup (eraseCell m a) b = lookup m b := by
  induction m with
  | nil => rfl
  | cons cell rest ih =>
    obtain ⟨k, c⟩ := cell
    by_cases h : k = a
    · have hb : ¬ b = k := by omega
      simpa [eraseCell, h, lookup, hb, hab] using ih
    · simpa [eraseCell, h, lookup] using congrArg (fun z => if b = k then c else z) ih

theorem lookup_insertCell_other (m : Memory) {a b : Nat} (c : Byte) (hab : b ≠ a) :
    lookup (insertCell a c m) b = lookup m b := by
  induction m with
  | nil => simp [insertCell, lookup, hab]
  | cons cell rest ih =>
    obtain ⟨k, d⟩ := cell
    simp only [insertCell]
    split
    · simp [lookup, hab]
    · simp [lookup, ih]

theorem lookup_insertCell_erased (m : Memory) (a : Nat) (c : Byte) :
    lookup (insertCell a c (eraseCell m a)) a = c := by
  induction m with
  | nil => simp [eraseCell, insertCell, lookup]
  | cons cell rest ih =>
    obtain ⟨k, d⟩ := cell
    by_cases h : k = a
    · simpa [eraseCell, h] using ih
    · have hk : ¬ a = k := fun e => h e.symm
      have he : eraseCell ((k, d) :: rest) a = (k, d) :: eraseCell rest a := by simp [eraseCell, h]
      rw [he]
      simp only [insertCell]
      split
      · simp [lookup]
      · simp [lookup, hk, ih]

/-- A store is what a later lookup of its address finds, and no other address sees it. -/
theorem lookup_store (m : Memory) (a b : Nat) (c : Byte) :
    lookup (store m a c) b = if b = a then c else lookup m b := by
  unfold store
  by_cases hab : b = a
  · subst hab
    split
    · rename_i h; simp [lookup_eraseCell_same, h]
    · simp [lookup_insertCell_erased]
  · split
    · rw [lookup_eraseCell_other m hab]
    · rw [lookup_insertCell_other _ c hab, lookup_eraseCell_other m hab]

/-- MemRead after MemWrite (20_memory.md R41, R50 (c)). -/
theorem memRead_memWrite (m : Memory) (a b : Nat) (c : Byte) :
    memRead (memWrite m a c) b = if b % 4096 = a % 4096 then c else memRead m b :=
  lookup_store m (a % 4096) (b % 4096) c

/-- Only the low twelve bits of an address reach the memory (R41). -/
theorem memRead_mod (m : Memory) (a : Nat) : memRead m (a % 4096) = memRead m a := by
  simp [memRead, Config.memSize]

/-- MemRead after a run of bytes that is no longer than the memory: the run where it went, the old byte
elsewhere. -/
theorem memRead_memWriteRun (bs : List Byte) : ∀ (m : Memory) (a b : Nat), bs.length ≤ 4096 →
    memRead (memWriteRun m a bs) b =
      if (b + 4096 - a % 4096) % 4096 < bs.length then bs.getD ((b + 4096 - a % 4096) % 4096) 0
      else memRead m b := by
  induction bs with
  | nil => intro m a b _; simp [memWriteRun]
  | cons c rest ih =>
    intro m a b hlen
    simp only [List.length_cons] at hlen
    simp only [memWriteRun, ih _ _ _ (by omega), memRead_memWrite, List.length_cons]
    by_cases hb : b % 4096 = a % 4096
    · have h0 : (b + 4096 - a % 4096) % 4096 = 0 := by omega
      have h1 : (b + 4096 - (a + 1) % 4096) % 4096 = 4095 := by omega
      have h2 : ¬ (4095 < rest.length) := by omega
      simp [h0, h1, h2, hb]
    · have h0 : (b + 4096 - a % 4096) % 4096 = (b + 4096 - (a + 1) % 4096) % 4096 + 1 := by omega
      simp [h0, hb]

/-! ## The canonical form -/

theorem wfFrom_cons (lo k : Nat) (b : Byte) (m : Memory) :
    wfFrom lo ((k, b) :: m) = true ↔ lo ≤ k ∧ k < 4096 ∧ b ≠ unlisted k ∧ wfFrom (k + 1) m = true := by
  simp only [wfFrom, Bool.and_eq_true, decide_eq_true_eq, and_assoc]
  rfl

theorem wfFrom_mono {lo lo' : Nat} (h : lo' ≤ lo) : ∀ {m : Memory}, wfFrom lo m = true → wfFrom lo' m = true
  | [], _ => rfl
  | (k, b) :: rest, hw => by
    rw [wfFrom_cons] at hw ⊢
    exact ⟨by omega, hw.2⟩

theorem eraseCell_wfFrom (a : Nat) : ∀ (m : Memory) (lo : Nat), wfFrom lo m = true →
    wfFrom lo (eraseCell m a) = true
  | [], _, _ => rfl
  | (k, b) :: rest, lo, hw => by
    rw [wfFrom_cons] at hw
    have ih := eraseCell_wfFrom a rest (k + 1) hw.2.2.2
    by_cases h : k = a
    · have he : eraseCell ((k, b) :: rest) a = eraseCell rest a := by simp [eraseCell, h]
      rw [he]
      exact wfFrom_mono (by omega) ih
    · have he : eraseCell ((k, b) :: rest) a = (k, b) :: eraseCell rest a := by simp [eraseCell, h]
      rw [he, wfFrom_cons]
      exact ⟨hw.1, hw.2.1, hw.2.2.1, ih⟩

theorem insertCell_erased_wfFrom {a : Nat} {c : Byte} (ha : a < 4096) (hc : c ≠ unlisted a) :
    ∀ (m : Memory) (lo : Nat), lo ≤ a → wfFrom lo m = true →
      wfFrom lo (insertCell a c (eraseCell m a)) = true
  | [], lo, hlo, _ => by
    simp only [eraseCell, List.filter_nil, insertCell]
    rw [wfFrom_cons]
    exact ⟨hlo, ha, hc, rfl⟩
  | (k, b) :: rest, lo, hlo, hw => by
    rw [wfFrom_cons] at hw
    by_cases h : k = a
    · have he : eraseCell ((k, b) :: rest) a = eraseCell rest a := by simp [eraseCell, h]
      rw [he]
      exact insertCell_erased_wfFrom ha hc rest lo hlo (wfFrom_mono (by omega) hw.2.2.2)
    · have he : eraseCell ((k, b) :: rest) a = (k, b) :: eraseCell rest a := by simp [eraseCell, h]
      rw [he]
      simp only [insertCell]
      split
      · rw [wfFrom_cons, wfFrom_cons]
        exact ⟨hlo, ha, hc, by omega, hw.2.1, hw.2.2.1, eraseCell_wfFrom a rest _ hw.2.2.2⟩
      · rw [wfFrom_cons]
        exact ⟨hw.1, hw.2.1, hw.2.2.1, insertCell_erased_wfFrom ha hc rest (k + 1) (by omega) hw.2.2.2⟩

/-- A write of one byte keeps the canonical form. -/
theorem memWrite_wf {m : Memory} (a : Nat) (b : Byte) (h : m.wf = true) : (memWrite m a b).wf = true := by
  unfold memWrite store Memory.wf
  split
  · exact eraseCell_wfFrom _ m 0 h
  · rename_i hb
    exact insertCell_erased_wfFrom (Nat.mod_lt _ (by decide)) hb m 0 (Nat.zero_le _) h

/-- A write of a run of bytes keeps the canonical form. -/
theorem memWriteRun_wf (bs : List Byte) : ∀ {m : Memory} (a : Nat), m.wf = true → (memWriteRun m a bs).wf = true := by
  induction bs with
  | nil => intro m a h; exact h
  | cons b rest ih => intro m a h; exact ih (a + 1) (memWrite_wf a b h)

end Sys2Proof.Machine
end

