-- ==== Sys2Proof/Laws/State.lean ====
section
/-! SUPPORT. What each update of the state does to each field: one lemma per field per update, true by rfl, so that no
later proof unfolds a record update. -/

namespace Sys2Proof.Machine

@[simp] theorem setReg_mem (s : State) (r : RegIdx) (b : Byte) : (setReg s r b).mem = s.mem := rfl
@[simp] theorem setReg_v (s : State) (r : RegIdx) (b : Byte) : (setReg s r b).v = s.v.set r b := rfl
@[simp] theorem setReg_index (s : State) (r : RegIdx) (b : Byte) : (setReg s r b).index = s.index := rfl
@[simp] theorem setReg_pc (s : State) (r : RegIdx) (b : Byte) : (setReg s r b).pc = s.pc := rfl
@[simp] theorem setReg_stack (s : State) (r : RegIdx) (b : Byte) : (setReg s r b).stack = s.stack := rfl
@[simp] theorem setReg_sp (s : State) (r : RegIdx) (b : Byte) : (setReg s r b).sp = s.sp := rfl
@[simp] theorem setReg_dt (s : State) (r : RegIdx) (b : Byte) : (setReg s r b).dt = s.dt := rfl
@[simp] theorem setReg_st (s : State) (r : RegIdx) (b : Byte) : (setReg s r b).st = s.st := rfl
@[simp] theorem setReg_fb (s : State) (r : RegIdx) (b : Byte) : (setReg s r b).fb = s.fb := rfl
@[simp] theorem setReg_redraw (s : State) (r : RegIdx) (b : Byte) : (setReg s r b).redraw = s.redraw := rfl
@[simp] theorem setReg_key (s : State) (r : RegIdx) (b : Byte) : (setReg s r b).key = s.key := rfl
@[simp] theorem setReg_halted (s : State) (r : RegIdx) (b : Byte) : (setReg s r b).halted = s.halted := rfl
@[simp] theorem setReg_fault (s : State) (r : RegIdx) (b : Byte) : (setReg s r b).fault = s.fault := rfl
@[simp] theorem setReg_draws (s : State) (r : RegIdx) (b : Byte) : (setReg s r b).draws = s.draws := rfl

@[simp] theorem writeByte_mem (s : State) (a : Nat) (b : Byte) : (writeByte s a b).mem = memWrite s.mem a b := rfl
@[simp] theorem writeByte_v (s : State) (a : Nat) (b : Byte) : (writeByte s a b).v = s.v := rfl
@[simp] theorem writeByte_index (s : State) (a : Nat) (b : Byte) : (writeByte s a b).index = s.index := rfl
@[simp] theorem writeByte_pc (s : State) (a : Nat) (b : Byte) : (writeByte s a b).pc = s.pc := rfl
@[simp] theorem writeByte_stack (s : State) (a : Nat) (b : Byte) : (writeByte s a b).stack = s.stack := rfl
@[simp] theorem writeByte_sp (s : State) (a : Nat) (b : Byte) : (writeByte s a b).sp = s.sp := rfl
@[simp] theorem writeByte_dt (s : State) (a : Nat) (b : Byte) : (writeByte s a b).dt = s.dt := rfl
@[simp] theorem writeByte_st (s : State) (a : Nat) (b : Byte) : (writeByte s a b).st = s.st := rfl
@[simp] theorem writeByte_fb (s : State) (a : Nat) (b : Byte) : (writeByte s a b).fb = s.fb := rfl
@[simp] theorem writeByte_redraw (s : State) (a : Nat) (b : Byte) : (writeByte s a b).redraw = s.redraw := rfl
@[simp] theorem writeByte_key (s : State) (a : Nat) (b : Byte) : (writeByte s a b).key = s.key := rfl
@[simp] theorem writeByte_halted (s : State) (a : Nat) (b : Byte) : (writeByte s a b).halted = s.halted := rfl
@[simp] theorem writeByte_fault (s : State) (a : Nat) (b : Byte) : (writeByte s a b).fault = s.fault := rfl
@[simp] theorem writeByte_draws (s : State) (a : Nat) (b : Byte) : (writeByte s a b).draws = s.draws := rfl

@[simp] theorem writeRun_mem (s : State) (a : Nat) (bs : List Byte) : (writeRun s a bs).mem = memWriteRun s.mem a bs := rfl
@[simp] theorem writeRun_v (s : State) (a : Nat) (bs : List Byte) : (writeRun s a bs).v = s.v := rfl
@[simp] theorem writeRun_index (s : State) (a : Nat) (bs : List Byte) : (writeRun s a bs).index = s.index := rfl
@[simp] theorem writeRun_pc (s : State) (a : Nat) (bs : List Byte) : (writeRun s a bs).pc = s.pc := rfl
@[simp] theorem writeRun_stack (s : State) (a : Nat) (bs : List Byte) : (writeRun s a bs).stack = s.stack := rfl
@[simp] theorem writeRun_sp (s : State) (a : Nat) (bs : List Byte) : (writeRun s a bs).sp = s.sp := rfl
@[simp] theorem writeRun_dt (s : State) (a : Nat) (bs : List Byte) : (writeRun s a bs).dt = s.dt := rfl
@[simp] theorem writeRun_st (s : State) (a : Nat) (bs : List Byte) : (writeRun s a bs).st = s.st := rfl
@[simp] theorem writeRun_fb (s : State) (a : Nat) (bs : List Byte) : (writeRun s a bs).fb = s.fb := rfl
@[simp] theorem writeRun_redraw (s : State) (a : Nat) (bs : List Byte) : (writeRun s a bs).redraw = s.redraw := rfl
@[simp] theorem writeRun_key (s : State) (a : Nat) (bs : List Byte) : (writeRun s a bs).key = s.key := rfl
@[simp] theorem writeRun_halted (s : State) (a : Nat) (bs : List Byte) : (writeRun s a bs).halted = s.halted := rfl
@[simp] theorem writeRun_fault (s : State) (a : Nat) (bs : List Byte) : (writeRun s a bs).fault = s.fault := rfl
@[simp] theorem writeRun_draws (s : State) (a : Nat) (bs : List Byte) : (writeRun s a bs).draws = s.draws := rfl

@[simp] theorem setIndexReg_mem (s : State) (w : Word) : (setIndexReg s w).mem = s.mem := rfl
@[simp] theorem setIndexReg_v (s : State) (w : Word) : (setIndexReg s w).v = s.v := rfl
@[simp] theorem setIndexReg_index (s : State) (w : Word) : (setIndexReg s w).index = w := rfl
@[simp] theorem setIndexReg_pc (s : State) (w : Word) : (setIndexReg s w).pc = s.pc := rfl
@[simp] theorem setIndexReg_stack (s : State) (w : Word) : (setIndexReg s w).stack = s.stack := rfl
@[simp] theorem setIndexReg_sp (s : State) (w : Word) : (setIndexReg s w).sp = s.sp := rfl
@[simp] theorem setIndexReg_dt (s : State) (w : Word) : (setIndexReg s w).dt = s.dt := rfl
@[simp] theorem setIndexReg_st (s : State) (w : Word) : (setIndexReg s w).st = s.st := rfl
@[simp] theorem setIndexReg_fb (s : State) (w : Word) : (setIndexReg s w).fb = s.fb := rfl
@[simp] theorem setIndexReg_redraw (s : State) (w : Word) : (setIndexReg s w).redraw = s.redraw := rfl
@[simp] theorem setIndexReg_key (s : State) (w : Word) : (setIndexReg s w).key = s.key := rfl
@[simp] theorem setIndexReg_halted (s : State) (w : Word) : (setIndexReg s w).halted = s.halted := rfl
@[simp] theorem setIndexReg_fault (s : State) (w : Word) : (setIndexReg s w).fault = s.fault := rfl
@[simp] theorem setIndexReg_draws (s : State) (w : Word) : (setIndexReg s w).draws = s.draws := rfl

@[simp] theorem setDelay_mem (s : State) (b : Byte) : (setDelay s b).mem = s.mem := rfl
@[simp] theorem setDelay_v (s : State) (b : Byte) : (setDelay s b).v = s.v := rfl
@[simp] theorem setDelay_index (s : State) (b : Byte) : (setDelay s b).index = s.index := rfl
@[simp] theorem setDelay_pc (s : State) (b : Byte) : (setDelay s b).pc = s.pc := rfl
@[simp] theorem setDelay_stack (s : State) (b : Byte) : (setDelay s b).stack = s.stack := rfl
@[simp] theorem setDelay_sp (s : State) (b : Byte) : (setDelay s b).sp = s.sp := rfl
@[simp] theorem setDelay_dt (s : State) (b : Byte) : (setDelay s b).dt = b := rfl
@[simp] theorem setDelay_st (s : State) (b : Byte) : (setDelay s b).st = s.st := rfl
@[simp] theorem setDelay_fb (s : State) (b : Byte) : (setDelay s b).fb = s.fb := rfl
@[simp] theorem setDelay_redraw (s : State) (b : Byte) : (setDelay s b).redraw = s.redraw := rfl
@[simp] theorem setDelay_key (s : State) (b : Byte) : (setDelay s b).key = s.key := rfl
@[simp] theorem setDelay_halted (s : State) (b : Byte) : (setDelay s b).halted = s.halted := rfl
@[simp] theorem setDelay_fault (s : State) (b : Byte) : (setDelay s b).fault = s.fault := rfl
@[simp] theorem setDelay_draws (s : State) (b : Byte) : (setDelay s b).draws = s.draws := rfl

@[simp] theorem setSound_mem (s : State) (b : Byte) : (setSound s b).mem = s.mem := rfl
@[simp] theorem setSound_v (s : State) (b : Byte) : (setSound s b).v = s.v := rfl
@[simp] theorem setSound_index (s : State) (b : Byte) : (setSound s b).index = s.index := rfl
@[simp] theorem setSound_pc (s : State) (b : Byte) : (setSound s b).pc = s.pc := rfl
@[simp] theorem setSound_stack (s : State) (b : Byte) : (setSound s b).stack = s.stack := rfl
@[simp] theorem setSound_sp (s : State) (b : Byte) : (setSound s b).sp = s.sp := rfl
@[simp] theorem setSound_dt (s : State) (b : Byte) : (setSound s b).dt = s.dt := rfl
@[simp] theorem setSound_st (s : State) (b : Byte) : (setSound s b).st = b := rfl
@[simp] theorem setSound_fb (s : State) (b : Byte) : (setSound s b).fb = s.fb := rfl
@[simp] theorem setSound_redraw (s : State) (b : Byte) : (setSound s b).redraw = s.redraw := rfl
@[simp] theorem setSound_key (s : State) (b : Byte) : (setSound s b).key = s.key := rfl
@[simp] theorem setSound_halted (s : State) (b : Byte) : (setSound s b).halted = s.halted := rfl
@[simp] theorem setSound_fault (s : State) (b : Byte) : (setSound s b).fault = s.fault := rfl
@[simp] theorem setSound_draws (s : State) (b : Byte) : (setSound s b).draws = s.draws := rfl

@[simp] theorem advance_mem (s : State) : (advance s).mem = s.mem := rfl
@[simp] theorem advance_v (s : State) : (advance s).v = s.v := rfl
@[simp] theorem advance_index (s : State) : (advance s).index = s.index := rfl
@[simp] theorem advance_pc (s : State) : (advance s).pc = s.pc + 2 := rfl
@[simp] theorem advance_stack (s : State) : (advance s).stack = s.stack := rfl
@[simp] theorem advance_sp (s : State) : (advance s).sp = s.sp := rfl
@[simp] theorem advance_dt (s : State) : (advance s).dt = s.dt := rfl
@[simp] theorem advance_st (s : State) : (advance s).st = s.st := rfl
@[simp] theorem advance_fb (s : State) : (advance s).fb = s.fb := rfl
@[simp] theorem advance_redraw (s : State) : (advance s).redraw = s.redraw := rfl
@[simp] theorem advance_key (s : State) : (advance s).key = s.key := rfl
@[simp] theorem advance_halted (s : State) : (advance s).halted = s.halted := rfl
@[simp] theorem advance_fault (s : State) : (advance s).fault = s.fault := rfl
@[simp] theorem advance_draws (s : State) : (advance s).draws = s.draws := rfl

@[simp] theorem skip_mem (s : State) : (skip s).mem = s.mem := rfl
@[simp] theorem skip_v (s : State) : (skip s).v = s.v := rfl
@[simp] theorem skip_index (s : State) : (skip s).index = s.index := rfl
@[simp] theorem skip_pc (s : State) : (skip s).pc = s.pc + 4 := rfl
@[simp] theorem skip_stack (s : State) : (skip s).stack = s.stack := rfl
@[simp] theorem skip_sp (s : State) : (skip s).sp = s.sp := rfl
@[simp] theorem skip_dt (s : State) : (skip s).dt = s.dt := rfl
@[simp] theorem skip_st (s : State) : (skip s).st = s.st := rfl
@[simp] theorem skip_fb (s : State) : (skip s).fb = s.fb := rfl
@[simp] theorem skip_redraw (s : State) : (skip s).redraw = s.redraw := rfl
@[simp] theorem skip_key (s : State) : (skip s).key = s.key := rfl
@[simp] theorem skip_halted (s : State) : (skip s).halted = s.halted := rfl
@[simp] theorem skip_fault (s : State) : (skip s).fault = s.fault := rfl
@[simp] theorem skip_draws (s : State) : (skip s).draws = s.draws := rfl

@[simp] theorem jumpTo_mem (s : State) (w : Word) : (jumpTo s w).mem = s.mem := rfl
@[simp] theorem jumpTo_v (s : State) (w : Word) : (jumpTo s w).v = s.v := rfl
@[simp] theorem jumpTo_index (s : State) (w : Word) : (jumpTo s w).index = s.index := rfl
@[simp] theorem jumpTo_pc (s : State) (w : Word) : (jumpTo s w).pc = w := rfl
@[simp] theorem jumpTo_stack (s : State) (w : Word) : (jumpTo s w).stack = s.stack := rfl
@[simp] theorem jumpTo_sp (s : State) (w : Word) : (jumpTo s w).sp = s.sp := rfl
@[simp] theorem jumpTo_dt (s : State) (w : Word) : (jumpTo s w).dt = s.dt := rfl
@[simp] theorem jumpTo_st (s : State) (w : Word) : (jumpTo s w).st = s.st := rfl
@[simp] theorem jumpTo_fb (s : State) (w : Word) : (jumpTo s w).fb = s.fb := rfl
@[simp] theorem jumpTo_redraw (s : State) (w : Word) : (jumpTo s w).redraw = s.redraw := rfl
@[simp] theorem jumpTo_key (s : State) (w : Word) : (jumpTo s w).key = s.key := rfl
@[simp] theorem jumpTo_halted (s : State) (w : Word) : (jumpTo s w).halted = s.halted := rfl
@[simp] theorem jumpTo_fault (s : State) (w : Word) : (jumpTo s w).fault = s.fault := rfl
@[simp] theorem jumpTo_draws (s : State) (w : Word) : (jumpTo s w).draws = s.draws := rfl

@[simp] theorem push_mem (s : State) (w : Word) (h : s.sp.val < 16) : (push s w h).mem = s.mem := rfl
@[simp] theorem push_v (s : State) (w : Word) (h : s.sp.val < 16) : (push s w h).v = s.v := rfl
@[simp] theorem push_index (s : State) (w : Word) (h : s.sp.val < 16) : (push s w h).index = s.index := rfl
@[simp] theorem push_pc (s : State) (w : Word) (h : s.sp.val < 16) : (push s w h).pc = s.pc := rfl
@[simp] theorem push_stack (s : State) (w : Word) (h : s.sp.val < 16) : (push s w h).stack = s.stack.set s.sp.val w := rfl
@[simp] theorem push_sp (s : State) (w : Word) (h : s.sp.val < 16) : (push s w h).sp = ⟨s.sp.val + 1, by omega⟩ := rfl
@[simp] theorem push_dt (s : State) (w : Word) (h : s.sp.val < 16) : (push s w h).dt = s.dt := rfl
@[simp] theorem push_st (s : State) (w : Word) (h : s.sp.val < 16) : (push s w h).st = s.st := rfl
@[simp] theorem push_fb (s : State) (w : Word) (h : s.sp.val < 16) : (push s w h).fb = s.fb := rfl
@[simp] theorem push_redraw (s : State) (w : Word) (h : s.sp.val < 16) : (push s w h).redraw = s.redraw := rfl
@[simp] theorem push_key (s : State) (w : Word) (h : s.sp.val < 16) : (push s w h).key = s.key := rfl
@[simp] theorem push_halted (s : State) (w : Word) (h : s.sp.val < 16) : (push s w h).halted = s.halted := rfl
@[simp] theorem push_fault (s : State) (w : Word) (h : s.sp.val < 16) : (push s w h).fault = s.fault := rfl
@[simp] theorem push_draws (s : State) (w : Word) (h : s.sp.val < 16) : (push s w h).draws = s.draws := rfl

@[simp] theorem dropTop_mem (s : State) : (dropTop s).mem = s.mem := rfl
@[simp] theorem dropTop_v (s : State) : (dropTop s).v = s.v := rfl
@[simp] theorem dropTop_index (s : State) : (dropTop s).index = s.index := rfl
@[simp] theorem dropTop_pc (s : State) : (dropTop s).pc = s.pc := rfl
@[simp] theorem dropTop_stack (s : State) : (dropTop s).stack = s.stack := rfl
@[simp] theorem dropTop_sp (s : State) : (dropTop s).sp = ⟨s.sp.val - 1, by have := s.sp.isLt; omega⟩ := rfl
@[simp] theorem dropTop_dt (s : State) : (dropTop s).dt = s.dt := rfl
@[simp] theorem dropTop_st (s : State) : (dropTop s).st = s.st := rfl
@[simp] theorem dropTop_fb (s : State) : (dropTop s).fb = s.fb := rfl
@[simp] theorem dropTop_redraw (s : State) : (dropTop s).redraw = s.redraw := rfl
@[simp] theorem dropTop_key (s : State) : (dropTop s).key = s.key := rfl
@[simp] theorem dropTop_halted (s : State) : (dropTop s).halted = s.halted := rfl
@[simp] theorem dropTop_fault (s : State) : (dropTop s).fault = s.fault := rfl
@[simp] theorem dropTop_draws (s : State) : (dropTop s).draws = s.draws := rfl

@[simp] theorem showFrame_mem (s : State) (fb : FrameBuffer) : (showFrame s fb).mem = s.mem := rfl
@[simp] theorem showFrame_v (s : State) (fb : FrameBuffer) : (showFrame s fb).v = s.v := rfl
@[simp] theorem showFrame_index (s : State) (fb : FrameBuffer) : (showFrame s fb).index = s.index := rfl
@[simp] theorem showFrame_pc (s : State) (fb : FrameBuffer) : (showFrame s fb).pc = s.pc := rfl
@[simp] theorem showFrame_stack (s : State) (fb : FrameBuffer) : (showFrame s fb).stack = s.stack := rfl
@[simp] theorem showFrame_sp (s : State) (fb : FrameBuffer) : (showFrame s fb).sp = s.sp := rfl
@[simp] theorem showFrame_dt (s : State) (fb : FrameBuffer) : (showFrame s fb).dt = s.dt := rfl
@[simp] theorem showFrame_st (s : State) (fb : FrameBuffer) : (showFrame s fb).st = s.st := rfl
@[simp] theorem showFrame_fb (s : State) (fb : FrameBuffer) : (showFrame s fb).fb = fb := rfl
@[simp] theorem showFrame_redraw (s : State) (fb : FrameBuffer) : (showFrame s fb).redraw = true := rfl
@[simp] theorem showFrame_key (s : State) (fb : FrameBuffer) : (showFrame s fb).key = s.key := rfl
@[simp] theorem showFrame_halted (s : State) (fb : FrameBuffer) : (showFrame s fb).halted = s.halted := rfl
@[simp] theorem showFrame_fault (s : State) (fb : FrameBuffer) : (showFrame s fb).fault = s.fault := rfl
@[simp] theorem showFrame_draws (s : State) (fb : FrameBuffer) : (showFrame s fb).draws = s.draws := rfl

@[simp] theorem timerPhase_mem (s : State) : (timerPhase s).mem = s.mem := rfl
@[simp] theorem timerPhase_v (s : State) : (timerPhase s).v = s.v := rfl
@[simp] theorem timerPhase_index (s : State) : (timerPhase s).index = s.index := rfl
@[simp] theorem timerPhase_pc (s : State) : (timerPhase s).pc = s.pc := rfl
@[simp] theorem timerPhase_stack (s : State) : (timerPhase s).stack = s.stack := rfl
@[simp] theorem timerPhase_sp (s : State) : (timerPhase s).sp = s.sp := rfl
@[simp] theorem timerPhase_dt (s : State) : (timerPhase s).dt = tick s.dt := rfl
@[simp] theorem timerPhase_st (s : State) : (timerPhase s).st = tick s.st := rfl
@[simp] theorem timerPhase_fb (s : State) : (timerPhase s).fb = s.fb := rfl
@[simp] theorem timerPhase_redraw (s : State) : (timerPhase s).redraw = s.redraw := rfl
@[simp] theorem timerPhase_key (s : State) : (timerPhase s).key = s.key := rfl
@[simp] theorem timerPhase_halted (s : State) : (timerPhase s).halted = s.halted := rfl
@[simp] theorem timerPhase_fault (s : State) : (timerPhase s).fault = s.fault := rfl
@[simp] theorem timerPhase_draws (s : State) : (timerPhase s).draws = s.draws := rfl

@[simp] theorem raiseState_mem (k : FaultKind) (w a : Word) (s : State) : (raiseState k w a s).mem = s.mem := rfl
@[simp] theorem raiseState_v (k : FaultKind) (w a : Word) (s : State) : (raiseState k w a s).v = s.v := rfl
@[simp] theorem raiseState_index (k : FaultKind) (w a : Word) (s : State) : (raiseState k w a s).index = s.index := rfl
@[simp] theorem raiseState_pc (k : FaultKind) (w a : Word) (s : State) : (raiseState k w a s).pc = s.pc := rfl
@[simp] theorem raiseState_stack (k : FaultKind) (w a : Word) (s : State) : (raiseState k w a s).stack = s.stack := rfl
@[simp] theorem raiseState_sp (k : FaultKind) (w a : Word) (s : State) : (raiseState k w a s).sp = s.sp := rfl
@[simp] theorem raiseState_dt (k : FaultKind) (w a : Word) (s : State) : (raiseState k w a s).dt = s.dt := rfl
@[simp] theorem raiseState_st (k : FaultKind) (w a : Word) (s : State) : (raiseState k w a s).st = s.st := rfl
@[simp] theorem raiseState_fb (k : FaultKind) (w a : Word) (s : State) : (raiseState k w a s).fb = s.fb := rfl
@[simp] theorem raiseState_redraw (k : FaultKind) (w a : Word) (s : State) : (raiseState k w a s).redraw = s.redraw := rfl
@[simp] theorem raiseState_key (k : FaultKind) (w a : Word) (s : State) : (raiseState k w a s).key = s.key := rfl
@[simp] theorem raiseState_halted (k : FaultKind) (w a : Word) (s : State) : (raiseState k w a s).halted = true := rfl
@[simp] theorem raiseState_fault (k : FaultKind) (w a : Word) (s : State) : (raiseState k w a s).fault = ⟨k, w, a⟩ := rfl
@[simp] theorem raiseState_draws (k : FaultKind) (w a : Word) (s : State) : (raiseState k w a s).draws = s.draws := rfl

@[simp] theorem setRegAndFlag_mem (s : State) (x : RegIdx) (b f : Byte) : (setRegAndFlag s x b f).mem = s.mem := rfl
@[simp] theorem setRegAndFlag_v (s : State) (x : RegIdx) (b f : Byte) : (setRegAndFlag s x b f).v = (s.v.set x b).set vf f := rfl
@[simp] theorem setRegAndFlag_index (s : State) (x : RegIdx) (b f : Byte) : (setRegAndFlag s x b f).index = s.index := rfl
@[simp] theorem setRegAndFlag_pc (s : State) (x : RegIdx) (b f : Byte) : (setRegAndFlag s x b f).pc = s.pc := rfl
@[simp] theorem setRegAndFlag_stack (s : State) (x : RegIdx) (b f : Byte) : (setRegAndFlag s x b f).stack = s.stack := rfl
@[simp] theorem setRegAndFlag_sp (s : State) (x : RegIdx) (b f : Byte) : (setRegAndFlag s x b f).sp = s.sp := rfl
@[simp] theorem setRegAndFlag_dt (s : State) (x : RegIdx) (b f : Byte) : (setRegAndFlag s x b f).dt = s.dt := rfl
@[simp] theorem setRegAndFlag_st (s : State) (x : RegIdx) (b f : Byte) : (setRegAndFlag s x b f).st = s.st := rfl
@[simp] theorem setRegAndFlag_fb (s : State) (x : RegIdx) (b f : Byte) : (setRegAndFlag s x b f).fb = s.fb := rfl
@[simp] theorem setRegAndFlag_redraw (s : State) (x : RegIdx) (b f : Byte) : (setRegAndFlag s x b f).redraw = s.redraw := rfl
@[simp] theorem setRegAndFlag_key (s : State) (x : RegIdx) (b f : Byte) : (setRegAndFlag s x b f).key = s.key := rfl
@[simp] theorem setRegAndFlag_halted (s : State) (x : RegIdx) (b f : Byte) : (setRegAndFlag s x b f).halted = s.halted := rfl
@[simp] theorem setRegAndFlag_fault (s : State) (x : RegIdx) (b f : Byte) : (setRegAndFlag s x b f).fault = s.fault := rfl
@[simp] theorem setRegAndFlag_draws (s : State) (x : RegIdx) (b f : Byte) : (setRegAndFlag s x b f).draws = s.draws := rfl

end Sys2Proof.Machine
end

