-- ==== Sys2Proof/Laws/Ops.lean ====
section
/-! SUPPORT. One spec lemma per shared operation: what a read gives after each update, and how a cycle ends. -/

namespace Sys2Proof.Machine

/-! ## Registers -/

/-- A read of `V[r]` after a write of `V[x]`. -/
theorem reg_setReg (s : State) (x r : RegIdx) (b : Byte) : reg (setReg s x b) r = if r = x then b else reg s r := by
  simp only [reg, setReg, Fin.getElem_fin, Vector.getElem_set, Fin.val_inj, eq_comm (a := x)]

/-- The flag wins when the destination is VF (42_alu.md R121). -/
theorem reg_setRegAndFlag (s : State) (x r : RegIdx) (b f : Byte) :
    reg (setRegAndFlag s x b f) r = if r = vf then f else if r = x then b else reg s r := by
  simp only [setRegAndFlag, reg_setReg]

/-- A read of `V[r]` depends on the register file alone. -/
theorem reg_congr {s t : State} (h : t.v = s.v) (r : RegIdx) : reg t r = reg s r := by
  simp only [reg, h]

theorem mem_regsUpTo (x r : RegIdx) : r ∈ regsUpTo x ↔ r ≤ x := by
  simp [regsUpTo]


/-- A load of a list of registers without repeats (43_index_memory.md R146): each of them holds the byte at `I` plus
its number, the others are kept. -/
theorem reg_loadRegs (rs : List RegIdx) : ∀ (s : State) (r : RegIdx), reg (loadRegs rs s) r =
    if r ∈ rs then readByte s (indexedAddr s r.val) else reg s r := by
  induction rs with
  | nil => intro s r; simp [loadRegs]
  | cons a rest ih =>
    intro s r
    have hstep : loadRegs (a :: rest) s = loadRegs rest (setReg s a (readByte s (indexedAddr s a.val))) := rfl
    have hread : ∀ b k, readByte (setReg s a b) (indexedAddr (setReg s a b) k) = readByte s (indexedAddr s k) :=
      fun _ _ => rfl
    rw [hstep, ih, hread, reg_setReg]
    by_cases hr : r ∈ rest
    · simp [hr]
    · by_cases ha : r = a
      · subst ha; simp [hr]
      · simp [hr, ha]

/-- A load of registers changes the register file alone. -/
theorem loadRegs_eq (rs : List RegIdx) : ∀ s : State, loadRegs rs s = { s with v := (loadRegs rs s).v } := by
  induction rs with
  | nil => intro s; rfl
  | cons a rest ih =>
    intro s
    have hstep : loadRegs (a :: rest) s = loadRegs rest (setReg s a (readByte s (indexedAddr s a.val))) := rfl
    rw [hstep]
    conv_lhs => rw [ih]
    rfl

@[simp] theorem loadRegs_mem (rs : List RegIdx) (s : State) : (loadRegs rs s).mem = s.mem := by rw [loadRegs_eq]

@[simp] theorem loadRegs_index (rs : List RegIdx) (s : State) : (loadRegs rs s).index = s.index := by rw [loadRegs_eq]

@[simp] theorem loadRegs_pc (rs : List RegIdx) (s : State) : (loadRegs rs s).pc = s.pc := by rw [loadRegs_eq]

@[simp] theorem loadRegs_stack (rs : List RegIdx) (s : State) : (loadRegs rs s).stack = s.stack := by rw [loadRegs_eq]

@[simp] theorem loadRegs_sp (rs : List RegIdx) (s : State) : (loadRegs rs s).sp = s.sp := by rw [loadRegs_eq]

@[simp] theorem loadRegs_dt (rs : List RegIdx) (s : State) : (loadRegs rs s).dt = s.dt := by rw [loadRegs_eq]

@[simp] theorem loadRegs_st (rs : List RegIdx) (s : State) : (loadRegs rs s).st = s.st := by rw [loadRegs_eq]

@[simp] theorem loadRegs_fb (rs : List RegIdx) (s : State) : (loadRegs rs s).fb = s.fb := by rw [loadRegs_eq]

@[simp] theorem loadRegs_redraw (rs : List RegIdx) (s : State) : (loadRegs rs s).redraw = s.redraw := by rw [loadRegs_eq]

@[simp] theorem loadRegs_key (rs : List RegIdx) (s : State) : (loadRegs rs s).key = s.key := by rw [loadRegs_eq]

@[simp] theorem loadRegs_halted (rs : List RegIdx) (s : State) : (loadRegs rs s).halted = s.halted := by rw [loadRegs_eq]

@[simp] theorem loadRegs_fault (rs : List RegIdx) (s : State) : (loadRegs rs s).fault = s.fault := by rw [loadRegs_eq]

@[simp] theorem loadRegs_draws (rs : List RegIdx) (s : State) : (loadRegs rs s).draws = s.draws := by rw [loadRegs_eq]

/-! ## Memory -/

/-- A read of a byte depends on memory alone. -/
theorem readByte_congr {s t : State} (h : t.mem = s.mem) (a : Nat) : readByte t a = readByte s a := by
  simp only [readByte, h]

/-- A read after a write of one byte (20_memory.md R41, R50 (c)). -/
theorem readByte_writeByte (s : State) (a b : Nat) (c : Byte) :
    readByte (writeByte s a c) b = if b % 4096 = a % 4096 then c else readByte s b :=
  memRead_memWrite s.mem a b c

/-- A read after a write of a run of bytes. -/
theorem readByte_writeRun (s : State) (a b : Nat) (bs : List Byte) (h : bs.length ≤ 4096) :
    readByte (writeRun s a bs) b =
      if (b + 4096 - a % 4096) % 4096 < bs.length then bs.getD ((b + 4096 - a % 4096) % 4096) 0
      else readByte s b :=
  memRead_memWriteRun bs s.mem a b h

theorem regsUpTo_length (x : RegIdx) : (regsUpTo x).length = x.val + 1 := by
  revert x; decide

theorem regsUpTo_getElem? (x : RegIdx) (k : Nat) :
    (regsUpTo x)[k]? = if h : k ≤ x.val then some ⟨k, by omega⟩ else none := by
  by_cases hk : k < 16
  · revert x
    obtain ⟨k, rfl⟩ : ∃ j : Fin 16, j.val = k := ⟨⟨k, hk⟩, rfl⟩
    revert k
    decide
  · have h1 : ¬ k ≤ x.val := by omega
    simp [h1, regsUpTo_length]

/-! ## The program counter (10_state.md R15) -/

theorem advance_toNat (s : State) : (advance s).pc.toNat = (s.pc.toNat + 2) % 65536 := by
  simp [BitVec.toNat_add]

theorem skip_toNat (s : State) : (skip s).pc.toNat = (s.pc.toNat + 4) % 65536 := by
  simp [BitVec.toNat_add]

/-- A conditional skip changes `pc` alone. -/
theorem skipIf_eq (c : Bool) (s : State) : skipIf c s = { s with pc := if c then s.pc + 4 else s.pc + 2 } := by
  cases c <;> rfl

theorem skipIf_toNat (c : Bool) (s : State) :
    (skipIf c s).pc.toNat = if c then (s.pc.toNat + 4) % 65536 else (s.pc.toNat + 2) % 65536 := by
  cases c
  · exact advance_toNat s
  · exact skip_toNat s

/-! ## The call stack (R16, R17) -/

/-- The stack after a push: the word where `SP` pointed, every other entry as before. -/
theorem push_entry (s : State) (w : Word) (h : s.sp.val < 16) (k : Nat) (hk : k < 16) :
    (push s w h).stack[k] = if k = s.sp.val then w else s.stack[k] := by
  simp only [push_stack, Vector.getElem_set, eq_comm (a := s.sp.val)]

/-! ## The frame buffer (44_display.md R150) -/

/-- A pixel read after a pixel write, both round the torus. -/
theorem pixelOf_setPixelOf (fb : FrameBuffer) (px py qx qy : Nat) (b : Bool) :
    pixelOf (setPixelOf fb px py b) qx qy =
      if qy % 32 = py % 32 ∧ qx % 64 = px % 64 then b else pixelOf fb qx qy := by
  simp only [pixelOf, setPixelOf, Vector.getElem_set]
  by_cases hy : py % 32 = qy % 32
  · by_cases hx : px % 64 = qx % 64
    · simp [hy, hx]
    · have : ¬ qx % 64 = px % 64 := fun e => hx e.symm
      simp [hy, hx, this]
  · have : ¬ qy % 32 = py % 32 := fun e => hy e.symm
    simp [hy, this]

theorem pixelOf_blankFrame (px py : Nat) : pixelOf blankFrame px py = false := by
  simp [pixelOf, blankFrame]

/-- Frame buffers that agree on every pixel are equal. -/
theorem frame_ext {f g : FrameBuffer} (h : ∀ px py, px < 64 → py < 32 → pixelOf f px py = pixelOf g px py) :
    f = g := by
  ext y hy x hx
  have := h x y hx hy
  simpa [pixelOf, Nat.mod_eq_of_lt hx, Nat.mod_eq_of_lt hy] using this

/-! ## Timers and keys -/

/-- A timer goes down by one with a floor at 0 (40_cycle_engine.md R85). -/
theorem tick_toNat (b : Byte) : (tick b).toNat = b.toNat - 1 := by
  unfold tick
  split
  · rename_i h; subst h; rfl
  · rename_i h
    have h1 : b.toNat ≠ 0 := fun e => h (BitVec.eq_of_toNat_eq e)
    have h2 := b.isLt
    rw [BitVec.toNat_sub]
    simp
    omega

/-- No key is pressed exactly when wait-for-key finds none (45_keys_timers.md R163). -/
theorem leastKey_none (s : State) : leastKey s = none ↔ ∀ k, keyDown s k = false := by
  simp [leastKey, List.find?_eq_none]

theorem leastKey_sound {s : State} {k : RegIdx} (h : leastKey s = some k) :
    keyDown s k = true ∧ ∀ j, j < k → keyDown s j = false := by
  obtain ⟨hk, as, bs, hl, has⟩ := List.find?_eq_some_iff_append.mp h
  refine ⟨hk, fun j hj => ?_⟩
  have hmem : j ∈ as ++ k :: bs := hl ▸ List.mem_finRange j
  have hsort : (as ++ k :: bs).Pairwise (· < ·) := hl ▸ List.pairwise_lt_finRange 16
  rcases List.mem_append.mp hmem with hja | hjb
  · simpa using has j hja
  · rcases List.mem_cons.mp hjb with rfl | hjb
    · exact absurd hj (lt_irrefl _)
    · have := (List.pairwise_cons.mp (List.pairwise_append.mp hsort).2.1).1 j hjb
      exact absurd hj (not_lt.mpr this.le)

/-- The key found is pressed and no key below it is; and it is the only such key. -/
theorem leastKey_some (s : State) (k : RegIdx) :
    leastKey s = some k ↔ keyDown s k = true ∧ ∀ j, j < k → keyDown s j = false := by
  refine ⟨leastKey_sound, fun ⟨hk, hbelow⟩ => ?_⟩
  cases hl : leastKey s with
  | none => simp [(leastKey_none s).mp hl k] at hk
  | some j =>
    obtain ⟨hj, hbelow'⟩ := leastKey_sound hl
    rcases lt_trichotomy j k with h | h | h
    · simp [hbelow j h] at hj
    · rw [h]
    · simp [hbelow' k h] at hk

/-! ## How a cycle ends -/

theorem done_next (s t : State) : done s = .next t ↔ t = timerPhase s := by
  simp [done, eq_comm]

theorem raise_next (k : FaultKind) (w a : Word) (s t : State) : raise k w a s = .next t ↔ t = raiseState k w a s := by
  simp [raise, eq_comm]

theorem blocked_next (s t : State) : blocked s = .next t ↔ t = s := by
  simp [blocked, eq_comm]

theorem idle_next (s t : State) : idle s = .next t ↔ t = s := by
  simp [idle, eq_comm]

/-! ## The host's actions -/

/-- LoadProgram with the numbers written out (40_cycle_engine.md R90). -/
theorem hostLoadProgram_eq (image : List Byte) (s : State) : hostLoadProgram image s =
    if image.length ≤ 3584 then writeRun s 0x200 image
    else raiseState .programTooLarge 0x0000#16 0x0000#16 s := rfl

/-- The images that fit (R90). -/
theorem hostLoadProgram_fits {image : List Byte} (h : image.length ≤ 3584) (s : State) :
    hostLoadProgram image s = writeRun s 0x200 image := by
  rw [hostLoadProgram_eq, if_pos h]

/-- The images that do not fit (R90). -/
theorem hostLoadProgram_tooLarge {image : List Byte} (h : 3584 < image.length) (s : State) :
    hostLoadProgram image s = raiseState .programTooLarge 0x0000#16 0x0000#16 s := by
  rw [hostLoadProgram_eq, if_neg (by omega)]

/-- SetKeys replaces the keys and nothing else (R89). -/
theorem hostAct_setKeys (keys : Vector Bool 16) (s : State) : hostAct (.setKeys keys) s = { s with key := keys } := rfl

/-- AckRedraw clears the redraw flag and nothing else (R89). -/
theorem hostAct_ackRedraw (s : State) : hostAct .ackRedraw s = { s with redraw := false } := rfl

/-- No host action but Reset clears the latch (60_exceptions.md R178). -/
theorem hostAct_keeps_halted (s : State) (h : s.halted = true) (a : HostAction) (ha : a ≠ .reset) :
    (hostAct a s).halted = true := by
  cases a with
  | setKeys keys => exact h
  | ackRedraw => exact h
  | reset => exact absurd rfl ha
  | loadProgram image =>
    simp only [hostAct, hostLoadProgram_eq]
    split
    · exact h
    · rfl

end Sys2Proof.Machine
end

