-- ==== Sys2Proof/Laws/PerInstr.lean ====
section
/-! SUPPORT. The family RowMatches: the word of every well-formed instruction matches the row of the opcode map
(30_encoding.md R65) that bears the instruction's name, and has the mask and value written there. -/

namespace Sys2Proof.Laws.RowMatches

/-- Some row of the opcode map bears the instruction's name and selects its word. -/
def Statement (i : Instr) : Prop :=
  WellFormed i = true →
    ∃ row ∈ opcodeMap, row.mnemonic = mnemonicOf i ∧ encode i &&& row.mask = row.value

/-! ## One lemma per constructor -/

theorem clearScreen : Statement .clearScreen := fun _ => ⟨⟨"clear-screen", 0xFFFF, 0x00E0⟩, by decide, rfl, by decide⟩

theorem ret : Statement .ret := fun _ => ⟨⟨"return", 0xFFFF, 0x00EE⟩, by decide, rfl, by decide⟩

theorem legacyCall (nnn : Addr12) : Statement (.legacyCall nnn) := fun _ =>
  ⟨⟨"legacy-call", 0xF000, 0x0000⟩, by decide, rfl, wordAddr_maskF000 0x0 nnn⟩

theorem jump (nnn : Addr12) : Statement (.jump nnn) := fun _ =>
  ⟨⟨"jump", 0xF000, 0x1000⟩, by decide, rfl, wordAddr_maskF000 0x1 nnn⟩

theorem call (nnn : Addr12) : Statement (.call nnn) := fun _ =>
  ⟨⟨"call", 0xF000, 0x2000⟩, by decide, rfl, wordAddr_maskF000 0x2 nnn⟩

theorem skipEqConst (x : RegIdx) (nn : Byte) : Statement (.skipEqConst x nn) := fun _ =>
  ⟨⟨"skip-eq-const", 0xF000, 0x3000⟩, by decide, rfl, wordXnn_maskF000 0x3 x nn⟩

theorem skipNeqConst (x : RegIdx) (nn : Byte) : Statement (.skipNeqConst x nn) := fun _ =>
  ⟨⟨"skip-neq-const", 0xF000, 0x4000⟩, by decide, rfl, wordXnn_maskF000 0x4 x nn⟩

theorem skipEqReg (x : RegIdx) (y : RegIdx) (n : Nibble) : Statement (.skipEqReg x y n) := fun _ =>
  ⟨⟨"skip-eq-reg", 0xF000, 0x5000⟩, by decide, rfl, wordXyn_maskF000 0x5 x y n⟩

theorem setConst (x : RegIdx) (nn : Byte) : Statement (.setConst x nn) := fun _ =>
  ⟨⟨"set-const", 0xF000, 0x6000⟩, by decide, rfl, wordXnn_maskF000 0x6 x nn⟩

theorem addConst (x : RegIdx) (nn : Byte) : Statement (.addConst x nn) := fun _ =>
  ⟨⟨"add-const", 0xF000, 0x7000⟩, by decide, rfl, wordXnn_maskF000 0x7 x nn⟩

theorem assign (x : RegIdx) (y : RegIdx) : Statement (.assign x y) := fun _ =>
  ⟨⟨"assign", 0xF00F, 0x8000⟩, by decide, rfl, wordXyn_maskF00F 0x8 x y 0x0⟩

theorem orReg (x : RegIdx) (y : RegIdx) : Statement (.orReg x y) := fun _ =>
  ⟨⟨"or", 0xF00F, 0x8001⟩, by decide, rfl, wordXyn_maskF00F 0x8 x y 0x1⟩

theorem andReg (x : RegIdx) (y : RegIdx) : Statement (.andReg x y) := fun _ =>
  ⟨⟨"and", 0xF00F, 0x8002⟩, by decide, rfl, wordXyn_maskF00F 0x8 x y 0x2⟩

theorem xorReg (x : RegIdx) (y : RegIdx) : Statement (.xorReg x y) := fun _ =>
  ⟨⟨"xor", 0xF00F, 0x8003⟩, by decide, rfl, wordXyn_maskF00F 0x8 x y 0x3⟩

theorem addReg (x : RegIdx) (y : RegIdx) : Statement (.addReg x y) := fun _ =>
  ⟨⟨"add-reg", 0xF00F, 0x8004⟩, by decide, rfl, wordXyn_maskF00F 0x8 x y 0x4⟩

theorem subReg (x : RegIdx) (y : RegIdx) : Statement (.subReg x y) := fun _ =>
  ⟨⟨"sub-reg", 0xF00F, 0x8005⟩, by decide, rfl, wordXyn_maskF00F 0x8 x y 0x5⟩

theorem shiftRight (x : RegIdx) (y : RegIdx) : Statement (.shiftRight x y) := fun _ =>
  ⟨⟨"shift-right", 0xF00F, 0x8006⟩, by decide, rfl, wordXyn_maskF00F 0x8 x y 0x6⟩

theorem subReverse (x : RegIdx) (y : RegIdx) : Statement (.subReverse x y) := fun _ =>
  ⟨⟨"sub-reverse", 0xF00F, 0x8007⟩, by decide, rfl, wordXyn_maskF00F 0x8 x y 0x7⟩

theorem shiftLeft (x : RegIdx) (y : RegIdx) : Statement (.shiftLeft x y) := fun _ =>
  ⟨⟨"shift-left", 0xF00F, 0x800E⟩, by decide, rfl, wordXyn_maskF00F 0x8 x y 0xE⟩

theorem skipNeqReg (x : RegIdx) (y : RegIdx) (n : Nibble) : Statement (.skipNeqReg x y n) := fun _ =>
  ⟨⟨"skip-neq-reg", 0xF000, 0x9000⟩, by decide, rfl, wordXyn_maskF000 0x9 x y n⟩

theorem setIndex (nnn : Addr12) : Statement (.setIndex nnn) := fun _ =>
  ⟨⟨"set-index", 0xF000, 0xA000⟩, by decide, rfl, wordAddr_maskF000 0xA nnn⟩

theorem jumpIndexed (nnn : Addr12) : Statement (.jumpIndexed nnn) := fun _ =>
  ⟨⟨"jump-indexed", 0xF000, 0xB000⟩, by decide, rfl, wordAddr_maskF000 0xB nnn⟩

theorem random (x : RegIdx) (nn : Byte) : Statement (.random x nn) := fun _ =>
  ⟨⟨"random", 0xF000, 0xC000⟩, by decide, rfl, wordXnn_maskF000 0xC x nn⟩

theorem drawSprite (x : RegIdx) (y : RegIdx) (n : Nibble) : Statement (.drawSprite x y n) := fun _ =>
  ⟨⟨"draw-sprite", 0xF000, 0xD000⟩, by decide, rfl, wordXyn_maskF000 0xD x y n⟩

theorem skipIfKeyPressed (x : RegIdx) : Statement (.skipIfKeyPressed x) := fun _ =>
  ⟨⟨"skip-if-key-pressed", 0xF0FF, 0xE09E⟩, by decide, rfl, wordXnn_maskF0FF 0xE x 0x9E⟩

theorem skipIfKeyNotPressed (x : RegIdx) : Statement (.skipIfKeyNotPressed x) := fun _ =>
  ⟨⟨"skip-if-key-not-pressed", 0xF0FF, 0xE0A1⟩, by decide, rfl, wordXnn_maskF0FF 0xE x 0xA1⟩

theorem getDelayTimer (x : RegIdx) : Statement (.getDelayTimer x) := fun _ =>
  ⟨⟨"get-delay-timer", 0xF0FF, 0xF007⟩, by decide, rfl, wordXnn_maskF0FF 0xF x 0x07⟩

theorem waitForKey (x : RegIdx) : Statement (.waitForKey x) := fun _ =>
  ⟨⟨"wait-for-key", 0xF0FF, 0xF00A⟩, by decide, rfl, wordXnn_maskF0FF 0xF x 0x0A⟩

theorem setDelayTimer (x : RegIdx) : Statement (.setDelayTimer x) := fun _ =>
  ⟨⟨"set-delay-timer", 0xF0FF, 0xF015⟩, by decide, rfl, wordXnn_maskF0FF 0xF x 0x15⟩

theorem setSoundTimer (x : RegIdx) : Statement (.setSoundTimer x) := fun _ =>
  ⟨⟨"set-sound-timer", 0xF0FF, 0xF018⟩, by decide, rfl, wordXnn_maskF0FF 0xF x 0x18⟩

theorem addToIndex (x : RegIdx) : Statement (.addToIndex x) := fun _ =>
  ⟨⟨"add-to-index", 0xF0FF, 0xF01E⟩, by decide, rfl, wordXnn_maskF0FF 0xF x 0x1E⟩

theorem spriteAddress (x : RegIdx) : Statement (.spriteAddress x) := fun _ =>
  ⟨⟨"sprite-address", 0xF0FF, 0xF029⟩, by decide, rfl, wordXnn_maskF0FF 0xF x 0x29⟩

theorem bcdStore (x : RegIdx) : Statement (.bcdStore x) := fun _ =>
  ⟨⟨"bcd-store", 0xF0FF, 0xF033⟩, by decide, rfl, wordXnn_maskF0FF 0xF x 0x33⟩

theorem registerDump (x : RegIdx) : Statement (.registerDump x) := fun _ =>
  ⟨⟨"register-dump", 0xF0FF, 0xF055⟩, by decide, rfl, wordXnn_maskF0FF 0xF x 0x55⟩

theorem registerLoad (x : RegIdx) : Statement (.registerLoad x) := fun _ =>
  ⟨⟨"register-load", 0xF0FF, 0xF065⟩, by decide, rfl, wordXnn_maskF0FF 0xF x 0x65⟩

end Sys2Proof.Laws.RowMatches
end

