-- ==== Sys2Proof/Tests/Slice0.lean ====
section
/-! SUPPORT. Tests. The expected results are those of spec/95_test_vectors.md (E1 to E8, T1 to T150) and of the worked
examples in the rules, named at each test; then a witness for every statement that has hypotheses. -/

namespace Sys2Proof.Machine.Tests

/-- The vector's start state: the word at `pc`. -/
def start (w : Word) (s : State) : State := placeWord s w

/-- One cycle with the word `w` at `pc`. -/
def after (w : Word) (s : State) : State :=
  match step (start w s) with
  | .next t => t
  | .fault _ => s
  | .refused _ => s

/-- The reset state with some registers written. -/
def withRegs (rs : List (RegIdx × Byte)) : State := rs.foldl (fun s p => setReg s p.1 p.2) State.reset

/-- A state with `I` written. -/
def withI (w : Word) (s : State) : State := setIndexReg s w

/-- A state with the stack pointer set. -/
def withSp (n : Fin 17) (s : State) : State := { s with sp := n }

/-- A state with one key pressed. -/
def pressed (k : RegIdx) (s : State) : State := { s with key := s.key.set k true }

/-- A state with one pixel set. -/
def lit (px py : Nat) (s : State) : State := { s with fb := setPixelOf s.fb px py true }

/-! ## Well-formed terms (30_encoding.md R65) -/

theorem test_wellFormed_refuses_sys_00E0 : WellFormed (.legacyCall 0x0E0) = false := by decide

theorem test_wellFormed_refuses_sys_00EE : WellFormed (.legacyCall 0x0EE) = false := by decide

theorem test_wellFormed_admits_sys_0123 : WellFormed (.legacyCall 0x123) = true := by decide

/-! ## Decoding and encoding: words written out bit by bit from R61, R62, R65 (T1 to T17) -/

theorem test_decode_clear_screen : decode 0b0000000011100000 = .ok .clearScreen := by decide
theorem test_decode_return : decode 0b0000000011101110 = .ok .ret := by decide
theorem test_decode_legacy_call : decode 0b0000000100100011 = .ok (.legacyCall 0x123) := by decide
theorem test_decode_zero_word : decode 0x0000 = .ok (.legacyCall 0x000) := by decide
theorem test_decode_jump : decode 0b0001101010111100 = .ok (.jump 0xABC) := by decide
theorem test_decode_call : decode 0b0010001100000000 = .ok (.call 0x300) := by decide
theorem test_decode_skip_eq_const : decode 0b0011101001000010 = .ok (.skipEqConst 10 0x42) := by decide
theorem test_decode_skip_neq_const : decode 0b0100101001000010 = .ok (.skipNeqConst 10 0x42) := by decide
theorem test_decode_skip_eq_reg : decode 0b0101000100100001 = .ok (.skipEqReg 1 2 1) := by decide
theorem test_decode_set_const : decode 0b0110101001000010 = .ok (.setConst 10 0x42) := by decide
theorem test_decode_add_const : decode 0b0111000100000101 = .ok (.addConst 1 0x05) := by decide
theorem test_decode_assign : decode 0b1000000100100000 = .ok (.assign 1 2) := by decide
theorem test_decode_or : decode 0b1000000100100001 = .ok (.orReg 1 2) := by decide
theorem test_decode_and : decode 0b1000000100100010 = .ok (.andReg 1 2) := by decide
theorem test_decode_xor : decode 0b1000000100100011 = .ok (.xorReg 1 2) := by decide
theorem test_decode_add_reg : decode 0b1000000100100100 = .ok (.addReg 1 2) := by decide
theorem test_decode_sub_reg : decode 0b1000000100100101 = .ok (.subReg 1 2) := by decide
theorem test_decode_shift_right : decode 0b1000000100000110 = .ok (.shiftRight 1 0) := by decide
theorem test_decode_sub_reverse : decode 0b1000000100100111 = .ok (.subReverse 1 2) := by decide
theorem test_decode_shift_left : decode 0b1000000100101110 = .ok (.shiftLeft 1 2) := by decide
theorem test_decode_skip_neq_reg : decode 0b1001000100100101 = .ok (.skipNeqReg 1 2 5) := by decide
theorem test_decode_set_index : decode 0b1010001011110000 = .ok (.setIndex 0x2F0) := by decide
theorem test_decode_jump_indexed : decode 0b1011001100000000 = .ok (.jumpIndexed 0x300) := by decide
theorem test_decode_random : decode 0b1100001100001111 = .ok (.random 3 0x0F) := by decide
theorem test_decode_draw_sprite : decode 0b1101000100100101 = .ok (.drawSprite 1 2 5) := by decide
theorem test_decode_skip_if_key_pressed : decode 0b1110010010011110 = .ok (.skipIfKeyPressed 4) := by decide
theorem test_decode_skip_if_key_not_pressed : decode 0b1110010010100001 = .ok (.skipIfKeyNotPressed 4) := by decide
theorem test_decode_get_delay_timer : decode 0b1111010100000111 = .ok (.getDelayTimer 5) := by decide
theorem test_decode_wait_for_key : decode 0b1111001100001010 = .ok (.waitForKey 3) := by decide
theorem test_decode_set_delay_timer : decode 0b1111001000010101 = .ok (.setDelayTimer 2) := by decide
theorem test_decode_set_sound_timer : decode 0b1111001000011000 = .ok (.setSoundTimer 2) := by decide
theorem test_decode_add_to_index : decode 0b1111001000011110 = .ok (.addToIndex 2) := by decide
theorem test_decode_sprite_address : decode 0b1111000000101001 = .ok (.spriteAddress 0) := by decide
theorem test_decode_bcd_store : decode 0b1111000000110011 = .ok (.bcdStore 0) := by decide
theorem test_decode_register_dump : decode 0b1111001001010101 = .ok (.registerDump 2) := by decide
theorem test_decode_register_load : decode 0b1111001001100101 = .ok (.registerLoad 2) := by decide

/-- T9: every absent selector of family 8. -/
theorem test_decode_family8_absent :
    decode 0x8128 = .error (.noMatch 0x8128) ∧ decode 0x8129 = .error (.noMatch 0x8129) ∧
    decode 0x812A = .error (.noMatch 0x812A) ∧ decode 0x812B = .error (.noMatch 0x812B) ∧
    decode 0x812C = .error (.noMatch 0x812C) ∧ decode 0x812D = .error (.noMatch 0x812D) ∧
    decode 0x812F = .error (.noMatch 0x812F) := by
  decide

/-- T14, T16. -/
theorem test_decode_families_E_F_absent :
    decode 0xE000 = .error (.noMatch 0xE000) ∧ decode 0xE09F = .error (.noMatch 0xE09F) ∧
    decode 0xE0A0 = .error (.noMatch 0xE0A0) ∧ decode 0xE19D = .error (.noMatch 0xE19D) ∧
    decode 0xEFFF = .error (.noMatch 0xEFFF) ∧ decode 0xF000 = .error (.noMatch 0xF000) ∧
    decode 0xF001 = .error (.noMatch 0xF001) ∧ decode 0xF00B = .error (.noMatch 0xF00B) ∧
    decode 0xF075 = .error (.noMatch 0xF075) ∧ decode 0xF085 = .error (.noMatch 0xF085) ∧
    decode 0xF090 = .error (.noMatch 0xF090) ∧ decode 0xFFFF = .error (.noMatch 0xFFFF) := by
  decide

/-- R65: the rows of the opcode map from the fourth on have no word in common, and 35 names. -/
theorem test_opcodeMap_rows_disjoint :
    (opcodeMap.drop 2).Pairwise (fun r q => r.value &&& (r.mask &&& q.mask) ≠ q.value &&& (r.mask &&& q.mask)) := by
  decide

theorem test_decodeBytes_truncated : decodeBytes [0x12] = .error .truncated := by decide

theorem test_decodeTableWord_big_endian : decodeTableWord 16 0x1ABC = some (.jump 0xABC) := by decide

/-- R72. -/
theorem test_asmText_draw_sprite : asmText (.drawSprite 1 2 5) = "draw-sprite V1, V2, 5" := by decide

theorem test_asmText_skip_eq_reg : asmText (.skipEqReg 1 2 7) = "skip-eq-reg V1, V2" := by decide

/-! ## Control transfer -/

/-- T20. -/
theorem test_legacy_call : (after 0x0123 State.reset).pc = 0x0202 := by decide
/-- T21: not reduced. -/
theorem test_legacy_call_top : (after 0x0000 { State.reset with pc := 0x0FFE }).pc = 0x1000 := by decide
/-- T22. -/
theorem test_jump : (after 0x1ABC State.reset).pc = 0x0ABC := by decide
/-- T23: the spin leaves the state as it was. -/
theorem test_jump_spin : after 0x1200 State.reset = start 0x1200 State.reset := by decide
/-- T24: the sixteenth call. -/
theorem test_call_sixteenth : let t := after 0x2400 (withSp 15 State.reset)
    t.stack[15] = 0x0200 ∧ t.sp = 16 ∧ t.pc = 0x0400 := by decide
/-- T25: nothing but the latch and the record. -/
theorem test_call_overflow : let s := start 0x2400 (withSp 16 State.reset)
    after 0x2400 (withSp 16 State.reset) =
      { s with halted := true, fault := ⟨.callStackOverflow, 0x2400, 0x0200⟩ } := by decide
/-- T26. -/
theorem test_return : let t := after 0x00EE { withSp 1 State.reset with stack := State.reset.stack.set 0 0x0ABC }
    t.sp = 0 ∧ t.pc = 0x0ABC := by decide
/-- T27. -/
theorem test_return_underflow : let t := after 0x00EE State.reset
    t.halted = true ∧ t.fault = ⟨.stackUnderflow, 0x00EE, 0x0200⟩ ∧ t.pc = 0x0200 := by decide
/-- T28. -/
theorem test_skip_eq_const_taken : (after 0x3A42 (withRegs [(10, 0x42)])).pc = 0x0204 := by decide
/-- T29. -/
theorem test_skip_eq_const_not : (after 0x3A42 (withRegs [(10, 0x41)])).pc = 0x0202 := by decide
/-- T30. -/
theorem test_skip_neq_const_not : (after 0x4A42 (withRegs [(10, 0x42)])).pc = 0x0202 := by decide
/-- T31. -/
theorem test_skip_neq_const_taken : (after 0x4A42 (withRegs [(10, 0x41)])).pc = 0x0204 := by decide
/-- T33. -/
theorem test_skip_eq_reg_not : (after 0x5120 (withRegs [(1, 1), (2, 2)])).pc = 0x0202 := by decide
/-- T35: the trailing nibble is ignored. -/
theorem test_skip_eq_reg_ignored : (after 0x5121 (withRegs [(1, 7), (2, 7)])).pc = 0x0204 := by decide
/-- T36. -/
theorem test_skip_neq_reg_taken : (after 0x9120 (withRegs [(1, 7), (2, 8)])).pc = 0x0204 := by decide
/-- T38: never skips on the same register. -/
theorem test_skip_neq_reg_same : (after 0x9330 (withRegs [(3, 7)])).pc = 0x0202 := by decide
/-- T40: the 16-bit sum, not reduced. -/
theorem test_jump_indexed_above : (after 0xBFFF (withRegs [(0, 0xFF)])).pc = 0x10FE := by decide
/-- T41: fetch at the top of `pc`, skip wraps modulo 65536. -/
theorem test_skip_wraps : (after 0x3000 { State.reset with pc := 0xFFFE }).pc = 0x0002 := by decide

/-! ## Register and ALU operations -/

/-- T50. -/
theorem test_set_const : reg (after 0x6FAB State.reset) 15 = 0xAB := by decide
/-- T51: no flag. -/
theorem test_add_const : let t := after 0x7005 (withRegs [(0, 0xFE), (15, 9)])
    reg t 0 = 0x03 ∧ reg t 15 = 9 := by decide
/-- T52: the wrapped sum, not a carry. -/
theorem test_add_const_vf : reg (after 0x7F01 (withRegs [(15, 0xFF)])) 15 = 0x00 := by decide
/-- T53. -/
theorem test_assign : let t := after 0x8120 (withRegs [(1, 0x33), (2, 0x55), (15, 9)])
    reg t 1 = 0x55 ∧ reg t 15 = 9 := by decide
/-- T54. -/
theorem test_or : let t := after 0x8121 (withRegs [(1, 0x33), (2, 0x55), (15, 9)])
    reg t 1 = 0x77 ∧ reg t 15 = 9 := by decide
/-- T55. -/
theorem test_and : let t := after 0x8122 (withRegs [(1, 0x33), (2, 0x55), (15, 9)])
    reg t 1 = 0x11 ∧ reg t 15 = 9 := by decide
/-- T56. -/
theorem test_xor : let t := after 0x8123 (withRegs [(1, 0x33), (2, 0x55), (15, 9)])
    reg t 1 = 0x66 ∧ reg t 15 = 9 := by decide
/-- E3, the document's own example. -/
theorem test_add_reg : let t := after 0x8014 (withRegs [(0, 250), (1, 10)])
    reg t 0 = 4 ∧ reg t 1 = 10 ∧ reg t 15 = 1 := by decide
/-- T61: the flag wins. -/
theorem test_add_reg_vf : reg (after 0x8F14 (withRegs [(15, 200), (1, 100)])) 15 = 1 := by decide
/-- E4, the document's own example. -/
theorem test_sub_reg : let t := after 0x8015 (withRegs [(0, 10), (1, 250)])
    reg t 0 = 16 ∧ reg t 15 = 0 := by decide
/-- T63: equal operands do not borrow. -/
theorem test_sub_reg_equal : let t := after 0x8015 (withRegs [(0, 7), (1, 7)])
    reg t 0 = 0 ∧ reg t 15 = 1 := by decide
/-- T67: `y` is ignored. -/
theorem test_shift_right : let t := after 0x8016 (withRegs [(0, 4), (1, 0xFF)])
    reg t 0 = 2 ∧ reg t 15 = 0 ∧ reg t 1 = 0xFF := by decide
/-- T69: the flag, not the shifted value. -/
theorem test_shift_right_vf : reg (after 0x8F06 (withRegs [(15, 2)])) 15 = 0 := by decide
/-- T73. -/
theorem test_sub_reverse : let t := after 0x8017 (withRegs [(0, 10), (1, 250)])
    reg t 0 = 240 ∧ reg t 15 = 1 := by decide
/-- T74. -/
theorem test_sub_reverse_borrow : let t := after 0x8017 (withRegs [(0, 250), (1, 10)])
    reg t 0 = 16 ∧ reg t 15 = 0 := by decide
/-- T70. -/
theorem test_shift_left : let t := after 0x800E (withRegs [(0, 0x81)])
    reg t 0 = 0x02 ∧ reg t 15 = 1 := by decide
/-- T72: the flag wins. -/
theorem test_shift_left_vf : reg (after 0x8F0E (withRegs [(15, 0x80)])) 15 = 1 := by decide
/-- T75, the draw given. -/
theorem test_random : ∃ t, execRandomWith 0xB7 3 0x0F State.reset = .next t ∧ reg t 3 = 0x07 := ⟨_, rfl, by decide⟩
/-- T77: a zero mask gives zero whatever the draw. -/
theorem test_random_masked (rnd : Byte) : ∃ t, execRandomWith rnd 0 0x00 State.reset = .next t ∧ reg t 0 = 0x00 :=
  ⟨_, rfl, by simp [reg]⟩

/-! ## Index register and memory -/

/-- T80. -/
theorem test_set_index : (after 0xA123 State.reset).index = 0x0123 := by decide
/-- T82: wraps at 16 bits. -/
theorem test_add_to_index_wraps : (after 0xF01E (withI 0xFFFF (withRegs [(0, 1)]))).index = 0x0000 := by decide
/-- T81: not reduced. -/
theorem test_add_to_index : (after 0xF01E (withI 0x0FFF (withRegs [(0, 1)]))).index = 0x1000 := by decide
/-- T83. -/
theorem test_sprite_address : (after 0xF029 (withRegs [(0, 0x0F)])).index = 0x009B := by decide
/-- T85: the low nibble. -/
theorem test_sprite_address_nibble : (after 0xF029 (withRegs [(0, 0x1A)])).index = 0x0082 := by decide
/-- E6, the document's own example. -/
theorem test_bcd_store : let t := after 0xF033 (withI 0x0300 (withRegs [(0, 234)]))
    readByte t 0x300 = 2 ∧ readByte t 0x301 = 3 ∧ readByte t 0x302 = 4 ∧ t.index = 0x0300 := by decide
/-- T91: each address wraps by itself. -/
theorem test_bcd_store_wraps : let t := after 0xF033 (withI 0x0FFE (withRegs [(0, 255)]))
    readByte t 0xFFE = 2 ∧ readByte t 0xFFF = 5 ∧ readByte t 0x000 = 5 := by decide
/-- T92: only `V0`. -/
theorem test_register_dump : let t := after 0xF055 (withI 0x0400 (withRegs [(0, 0xAA), (1, 0xBB)]))
    readByte t 0x400 = 0xAA ∧ readByte t 0x401 = 0 ∧ t.index = 0x0400 := by decide
/-- T93: the last registers wrap to address 0. -/
theorem test_register_dump_wraps : let t := after 0xFF55 (withI 0x0FF8 (withRegs [(7, 0x17), (8, 0x18), (15, 0x1F)]))
    readByte t 0xFFF = 0x17 ∧ readByte t 0x000 = 0x18 ∧ readByte t 0x007 = 0x1F := by decide
/-- T94. -/
theorem test_register_load : let t := after 0xF265 (withI 0x0400 (writeRun (withRegs [(3, 9)]) 0x400 [1, 2, 3, 4]))
    reg t 0 = 1 ∧ reg t 1 = 2 ∧ reg t 2 = 3 ∧ reg t 3 = 9 ∧ t.index = 0x0400 := by decide
/-- T95: the program reads its own instruction. -/
theorem test_register_load_code : let t := after 0xF165 (withI 0x0200 State.reset)
    reg t 0 = 0xF1 ∧ reg t 1 = 0x65 := by decide
/-- 10_state.md R31: the last font byte and the zeros on both sides. -/
theorem test_font_region : readByte State.reset 0x04F = 0x00 ∧ readByte State.reset 0x050 = 0xF0 ∧
    readByte State.reset 0x09F = 0x80 ∧ readByte State.reset 0x0A0 = 0x00 := by decide
theorem test_fontRom_length : fontRom.length = 80 := by decide
/-- Writing an unlisted cell's own value leaves nothing listed. -/
theorem test_write_reset_value : writeByte State.reset 0x1050 0xF0 = State.reset := by decide

/-! ## Display -/

/-- E2, T110. -/
theorem test_clear_screen : let t := after 0x00E0 (lit 5 0 (withRegs [(15, 1)]))
    t.fb = blankFrame ∧ t.redraw = true ∧ reg t 15 = 1 ∧ t.pc = 0x0202 := by decide
/-- T101: a sprite over the right edge goes on at column 0 of its row. -/
theorem test_draw_sprite_wraps :
    let t := after 0xD011 (withI 0x0300 (writeByte (withRegs [(0, 60), (1, 31)]) 0x300 0xFF))
    pixel t 60 31 = true ∧ pixel t 63 31 = true ∧ pixel t 0 31 = true ∧ pixel t 3 31 = true ∧ pixel t 4 31 = false ∧
      pixel t 0 0 = false ∧ reg t 15 = 0 := by decide
/-- T107: one collision is enough. -/
theorem test_draw_sprite_collides :
    let t := after 0xD011 (withI 0x0300 (writeByte (lit 1 0 State.reset) 0x300 0xC0))
    pixel t 0 0 = true ∧ pixel t 1 0 = false ∧ reg t 15 = 1 ∧ t.redraw = true := by decide

/-! ## Keys and timers -/

/-- T124: the low nibble. -/
theorem test_skip_if_key_pressed : (after 0xE49E (pressed 10 (withRegs [(4, 0x1A)]))).pc = 0x0204 := by decide
/-- T121. -/
theorem test_skip_if_key_pressed_not : (after 0xE09E (withRegs [(0, 5)])).pc = 0x0202 := by decide
/-- T122. -/
theorem test_skip_if_key_not_pressed : (after 0xE0A1 (withRegs [(0, 5)])).pc = 0x0204 := by decide
/-- T123. -/
theorem test_skip_if_key_not_pressed_not : (after 0xE0A1 (pressed 5 (withRegs [(0, 5)]))).pc = 0x0202 := by decide
/-- T125: blocked. -/
theorem test_wait_for_key_blocks : let s := { State.reset with dt := 5, st := 3 }
    after 0xF30A s = start 0xF30A s := by decide
/-- T127: the least of two keys, and one tick. -/
theorem test_wait_for_key : let t := after 0xF30A (pressed 12 (pressed 7 { State.reset with dt := 5, st := 3 }))
    reg t 3 = 7 ∧ t.pc = 0x0202 ∧ t.dt = 4 ∧ t.st = 2 := by decide
/-- T129: read first, timer phase after. -/
theorem test_get_delay_timer : let t := after 0xF507 { State.reset with dt := 0x10 }
    reg t 5 = 0x10 ∧ t.dt = 0x0F := by decide
/-- T130. -/
theorem test_set_delay_timer : (after 0xF215 (withRegs [(2, 0x3C)])).dt = 59 := by decide
/-- T131. -/
theorem test_set_delay_timer_zero : (after 0xF215 { withRegs [(2, 0)] with dt := 7 }).dt = 0 := by decide
/-- T132. -/
theorem test_set_sound_timer : (after 0xF218 (withRegs [(2, 1)])).st = 0 := by decide
/-- E8: no underflow. -/
theorem test_timer_floor : (after 0x0000 State.reset).dt = 0 ∧ (after 0x0000 { State.reset with dt := 1 }).dt = 0 := by
  decide

/-! ## Faults and the host -/

/-- T140: precise, no timer phase. -/
theorem test_invalid_instruction : let s := start 0x8008 { State.reset with dt := 9 }
    step s = .next { s with halted := true, fault := ⟨.invalidInstruction, 0x8008, 0x0200⟩ } := rfl
/-- T143. -/
theorem test_halted_cycle : let s := raiseState .invalidInstruction 0x8008 0x0200 State.reset
    step s = .next s := rfl
/-- T146. -/
theorem test_load_too_large : hostAct (.loadProgram (List.replicate 3585 0xAA)) State.reset =
    raiseState .programTooLarge 0 0 State.reset := by
  exact hostLoadProgram_tooLarge (by rw [List.length_replicate]; decide) State.reset
/-- R90: the first byte of an image goes to 0x200. -/
theorem test_load : let t := hostAct (.loadProgram [0x12, 0x03]) State.reset
    readByte t 0x200 = 0x12 ∧ readByte t 0x201 = 0x03 ∧ readByte t 0x1FF = 0 ∧ t.halted = false := by decide
/-- R90, D16: on a halted core the load is the same byte copy, and the core stays halted. -/
theorem test_load_halted : let t := hostAct (.loadProgram [0x12, 0x03]) (after 0x8008 State.reset)
    readByte t 0x200 = 0x12 ∧ readByte t 0x201 = 0x03 ∧ t.halted = true ∧
    t.fault = ⟨.invalidInstruction, 0x8008, 0x0200⟩ := by decide
/-- R89, R153: the host clears the flag of a halted core too. -/
theorem test_ack_redraw_halted :
    let s := raiseState .stackUnderflow 0x00EE 0x0200 { State.reset with redraw := true }
    hostAct .ackRedraw s = { s with redraw := false } := rfl
/-- R90: an image that does not fit is reported on a halted core too. -/
theorem test_load_too_large_halted :
    (hostAct (.loadProgram (List.replicate 3585 0xAA)) (after 0x8008 State.reset)).fault = ⟨.programTooLarge, 0, 0⟩ :=
  congrArg State.fault (hostLoadProgram_tooLarge (by rw [List.length_replicate]; decide) (after 0x8008 State.reset))
/-- T149. -/
theorem test_reset_after_fault : hostAct .reset (after 0x8008 State.reset) = State.reset := by decide
/-- T150. -/
theorem test_ack_redraw : (hostAct .ackRedraw (after 0x00E0 State.reset)).redraw = false := by decide
/-- R92: pixel `y * 64 + x`. -/
theorem test_read_port : hostReadFrameBuffer (lit 5 2 State.reset) 133 = true := by decide

/-! ## Witnesses: for each statement with hypotheses, a state and operands that meet them -/

theorem witness_DecodeOfEncodeIsIdentity : WellFormed (.legacyCall 0x0EF) = true ∧ WellFormed (.legacyCall 0x0DF) = true ∧
    WellFormed (.drawSprite 15 15 15) = true := by decide

theorem witness_EncodeOfDecodeIsIdentity : decode 0xD125 = .ok (.drawSprite 1 2 5) := by decide

/-- The illegal words at the edges of the three ranges of R67. -/
theorem witness_IllegalWord : IllegalWord 0x8008 ∧ IllegalWord 0x8FFF ∧ IllegalWord 0xE000 ∧ IllegalWord 0xEFFF ∧
    IllegalWord 0xF000 ∧ IllegalWord 0xFFFF :=
  ⟨by decide, by decide, by decide, by decide, by decide, by decide⟩

theorem witness_legal_words : ¬ IllegalWord 0x8007 ∧ ¬ IllegalWord 0x8FFE ∧ ¬ IllegalWord 0xE09E ∧
    ¬ IllegalWord 0xF065 ∧ ¬ IllegalWord 0x7FFF :=
  ⟨by decide, by decide, by decide, by decide, by decide⟩

theorem witness_StepRunsDecodedInstruction : let s := start 0x6A42 State.reset
    Running s ∧ decode (fetchWord s) = .ok (.setConst 10 0x42) := by
  decide

theorem witness_PlacedWordIsRunByTheNextStep : decodeTableWord 16 0x8014 = some (.addReg 0 1) := by decide

theorem witness_IllegalWordHaltsWithRecord : let s := start 0xE09F State.reset
    Running s ∧ IllegalWord (fetchWord s) := by
  decide

theorem witness_HaltedCoreIgnoresCycles : (after 0x8008 State.reset).halted = true := by decide

/-- For FaultingCyclesChangeOnlyLatchAndRecord, CycleHaltsExactlyOnFatalConditions and the first clause of
TimerPhaseFollowsCompletedCyclesOnly: a running core whose cycle halts, by each of the three conditions. -/
theorem witness_halting_cycles :
    (∃ t, Running (start 0x8008 State.reset) ∧ step (start 0x8008 State.reset) = .next t ∧ t.halted = true) ∧
    (∃ t, step (start 0x2400 (withSp 16 State.reset)) = .next t ∧ t.halted = true) ∧
    (∃ t, step (start 0x00EE State.reset) = .next t ∧ t.halted = true) :=
  ⟨⟨_, rfl, rfl, rfl⟩, ⟨_, rfl, rfl⟩, ⟨_, rfl, rfl⟩⟩

theorem witness_MeetsFatal : MeetsFatal (start 0x8008 State.reset) ∧ MeetsFatal (start 0x2400 (withSp 16 State.reset)) ∧
    MeetsFatal (start 0x00EE State.reset) :=
  ⟨.inl ⟨.noMatch 0x8008, by decide⟩, .inr (.inl ⟨0x400, by decide, rfl⟩), .inr (.inr ⟨by decide, rfl⟩)⟩

/-- For the second clause of TimerPhaseFollowsCompletedCyclesOnly: a blocked cycle, a completed one, and the two that set
a timer. -/
theorem witness_TimerPhaseFollowsCompletedCyclesOnly :
    (∃ t, step (start 0xF30A State.reset) = .next t ∧ t.halted = false ∧ ∀ k, keyDown (start 0xF30A State.reset) k = false) ∧
    (∃ t, Running (start 0x1200 State.reset) ∧ step (start 0x1200 State.reset) = .next t ∧ t.halted = false) ∧
    decode (fetchWord (start 0xF215 State.reset)) = .ok (.setDelayTimer 2) ∧
    decode (fetchWord (start 0xF218 State.reset)) = .ok (.setSoundTimer 2) :=
  ⟨⟨_, rfl, rfl, by decide⟩, ⟨_, rfl, rfl, rfl⟩, by decide, by decide⟩

theorem witness_DelayTimerCountsCompletedCycles :
    let s := start 0x1200 { State.reset with dt := 7 }
    DelayRun s 1 (timerPhase s) :=
  .next .start rfl (i := .jump 0x200) (by decide) (fun _ h => by cases h) (fun _ h => by cases h) rfl rfl

/-- For PcMovesInItsTableForm, ExecWritesOnlyWhatTheAccessMatrixNames and the second clause of
RedrawIsSetByDisplayOperationsOnly: an operation of each form, and a call and a return that fault. -/
theorem witness_exec_answers :
    (∃ t, exec (.setConst 1 2) State.reset = .next t) ∧ (∃ t, exec (.skipEqConst 0 0) State.reset = .next t) ∧
    (∃ t, exec (.jump 0x300) State.reset = .next t) ∧ (∃ t, exec (.waitForKey 0) State.reset = .next t) ∧
    (∃ t, exec (.call 0x300) (withSp 16 State.reset) = .next t) ∧ (∃ t, exec .ret State.reset = .next t) ∧
    (∃ t, exec .ret (withSp 1 State.reset) = .next t) ∧ (∃ t, exec (.call 0x300) (withSp 15 State.reset) = .next t) ∧
    (∃ t, exec (.jumpIndexed 0x300) State.reset = .next t) :=
  ⟨⟨_, rfl⟩, ⟨_, rfl⟩, ⟨_, rfl⟩, ⟨_, rfl⟩, ⟨_, rfl⟩, ⟨_, rfl⟩, ⟨_, rfl⟩, ⟨_, rfl⟩, ⟨_, rfl⟩⟩

theorem witness_EveryStepKeepsInvariant : Inv State.reset ∧ ∃ t, step State.reset = .next t :=
  ⟨⟨rfl, rfl, rfl⟩, ⟨_, rfl⟩⟩

theorem witness_HostActionsKeepInvariant : Inv State.reset := ⟨rfl, rfl, rfl⟩

/-- A reachable state that a program load, a key press and a cycle made. -/
theorem witness_ReachableStatesMeetInvariant :
    Reachable (after 0x6A42 State.reset) :=
  .cycle (s := hostAct (.loadProgram [0x6A, 0x42]) State.reset) (.host _ .reset) rfl

theorem witness_LoadProgramCopiesVerbatim : (List.replicate 3584 (0xAA : Byte)).length ≤ 3584 ∧
    ([] : List Byte).length ≤ 3584 :=
  ⟨by rw [List.length_replicate], by decide⟩

theorem witness_LoadProgramTooLargeHalts : State.reset.halted = false ∧ (after 0x8008 State.reset).halted = true ∧
    3584 < (List.replicate 3585 (0xAA : Byte)).length :=
  ⟨rfl, rfl, by rw [List.length_replicate]; decide⟩

theorem witness_FirstCycleRunsFirstLoadedWord : ([] : List Byte).length ≤ 3582 ∧
    (List.replicate 3582 (0xAA : Byte)).length ≤ 3582 ∧ decode ((0x12#8 : Byte) ++ (0x03#8 : Byte)) = .ok (.jump 0x203) :=
  ⟨by decide, by rw [List.length_replicate], by decide⟩

theorem witness_HostActionsChangeOnlyTheirPart : (after 0x8008 State.reset).halted = true := by decide

theorem witness_HaltedCoreKeepsAllButHostInputs : (after 0x8008 State.reset).halted = true ∧
    ([0x12, 0x03] : List Byte).length ≤ 3584 ∧ 3584 < (List.replicate 3585 (0xAA : Byte)).length :=
  ⟨rfl, by decide, by rw [List.length_replicate]; decide⟩

/-- For CallPushesItsOwnAddressOrOverflows and CallThenReturnLandsOnTheCall. -/
theorem witness_call : (withSp 0 State.reset).sp.val < 16 ∧ (withSp 15 State.reset).sp.val < 16 ∧
    (withSp 16 State.reset).sp.val = 16 := by decide

theorem witness_ReturnPopsOrUnderflows : 0 < (withSp 1 State.reset).sp.val ∧ 0 < (withSp 16 State.reset).sp.val ∧
    State.reset.sp.val = 0 := by decide

theorem witness_SpinJumpChangesOnlyTimers : let s := start 0x1200 State.reset
    Running s ∧ decode (fetchWord s) = .ok (.jump 0x200) ∧ s.pc.toNat = (0x200 : Addr12).toNat := by
  decide

theorem witness_skip_clauses : reg State.reset 3 = 0x00 ∧ reg State.reset 3 ≠ 0x01 ∧
    reg State.reset 1 = reg State.reset 2 ∧ reg (withRegs [(1, 7)]) 1 ≠ reg (withRegs [(1, 7)]) 2 := by decide

theorem witness_flag_clauses : (0 : RegIdx) ≠ 15 ∧ (14 : RegIdx) ≠ 15 := by decide

theorem witness_RandomMasksTheFreeDraw : (0x00#8 : Byte) = 0x00#8 := rfl

theorem witness_RegisterRangeDumpsAndLoads : (15 : RegIdx) ≤ 15 ∧ (0 : RegIdx) ≤ 0 ∧
    ∃ t, exec (.registerDump 2) State.reset = .next t ∧ t.index = State.reset.index ∧ SameMemory t t :=
  ⟨by decide, by decide, _, rfl, rfl, fun _ => rfl⟩

theorem witness_StoredWordIsFetchedByNextCycle : let s := withI 0x0202 (withRegs [(0, 0x6A), (1, 0x77)])
    1 ≤ (1 : RegIdx).val ∧ (s.pc.toNat + 2) % 4096 = s.index.toNat % 4096 ∧ ∃ t, exec (.registerDump 1) s = .next t :=
  ⟨by decide, by decide, _, rfl⟩

/-- Both collision clauses of DrawSpriteFlipsCoveredPixels: a pixel lost, and none lost. -/
theorem witness_DrawSpriteFlipsCoveredPixels :
    (∃ t, exec (.drawSprite 0 1 1) (withI 0x0050 (lit 0 0 State.reset)) = .next t ∧
      pixel (withI 0x0050 (lit 0 0 State.reset)) 0 0 = true ∧ pixel t 0 0 = false) ∧
    (∃ t, exec (.drawSprite 0 1 0) State.reset = .next t ∧
      ∀ px py, px < 64 → py < 32 → pixel State.reset px py = true → pixel t px py = true) :=
  ⟨⟨_, rfl, by decide, by decide⟩, ⟨_, rfl, fun _ _ _ _ h => h⟩⟩

theorem witness_DrawingTwiceRestoresTheFrame : (0 : RegIdx) ≠ 15 ∧ (1 : RegIdx) ≠ 15 := by decide

theorem witness_RedrawIsSetByDisplayOperationsOnly :
    (∃ t, Running (start 0x00E0 State.reset) ∧ step (start 0x00E0 State.reset) = .next t) ∧
    decode (fetchWord (start 0x00E0 State.reset)) = .ok .clearScreen ∧
    decode (fetchWord (start 0xD125 State.reset)) = .ok (.drawSprite 1 2 5) ∧
    decode (fetchWord (start 0x6A42 State.reset)) = .ok (.setConst 10 0x42) :=
  ⟨⟨_, rfl, rfl⟩, by decide, by decide, by decide⟩

theorem witness_KeySkipsFollowTheKeyFlag : (reg (withRegs [(4, 0x1A)]) 4).toNat % 16 = (10 : RegIdx).val ∧
    (reg (withRegs [(4, 0xFF)]) 4).toNat % 16 = (15 : RegIdx).val ∧ (reg State.reset 4).toNat % 16 = (0 : RegIdx).val ∧
    keyDown (pressed 10 (withRegs [(4, 0x1A)])) 10 = true ∧ keyDown (withRegs [(4, 0x1A)]) 10 = false := by
  decide

theorem witness_WaitForKeyBlocksWithoutAKey : ∀ k, keyDown State.reset k = false := by decide

theorem witness_WaitForKeyTakesTheLeastKey :
    (keyDown (pressed 0 State.reset) 0 = true ∧ ∀ j, j < (0 : RegIdx) → keyDown (pressed 0 State.reset) j = false) ∧
    (keyDown (pressed 15 State.reset) 15 = true ∧ ∀ j, j < (15 : RegIdx) → keyDown (pressed 15 State.reset) j = false) := by
  decide

theorem witness_SoundTimerAndRedrawReachNothingElse : ∃ t, step { State.reset with st := 9 } = .next t := ⟨_, rfl⟩

theorem witness_KeysReachOnlyKeyOperations :
    (∀ x, Instr.setConst 1 2 ≠ .skipIfKeyPressed x ∧ Instr.setConst 1 2 ≠ .skipIfKeyNotPressed x ∧
      Instr.setConst 1 2 ≠ .waitForKey x) ∧ ∃ t, exec (.setConst 1 2) State.reset = .next t :=
  ⟨fun _ => ⟨by simp, by simp, by simp⟩, _, rfl⟩

/-! ## An instance of the canonical form -/

theorem test_wf_rejects_reset_value : Memory.wf [(0x300, 0x00)] = false := by decide

theorem test_wf_rejects_unsorted : Memory.wf [(0x301, 0x01), (0x300, 0x01)] = false := by decide

end Sys2Proof.Machine.Tests
end

section
/-! The way each operation ends a cycle, and what a cycle does: equations for the branches of `exec` and `step`, and
the two inversion lemmas `exec_ends` and `step_cases`. -/

namespace Sys2Proof.Machine

/-! ## The branches of return, call, wait-for-key and the skips -/

theorem exec_ret_pop {s : State} (h : 0 < s.sp.val) :
    exec .ret s = done (jumpTo (dropTop s) (top s h + retResumeOffset)) := dif_pos h

theorem exec_ret_empty {s : State} (h : ¬ 0 < s.sp.val) :
    exec .ret s = raise .stackUnderflow 0x00EE#16 s.pc s := dif_neg h

theorem exec_call_push {s : State} (nnn : Addr12) (h : s.sp.val < 16) :
    exec (.call nnn) s = done (jumpTo (push s s.pc h) (addrOperand nnn)) := dif_pos h

theorem exec_call_full {s : State} (nnn : Addr12) (h : ¬ s.sp.val < 16) :
    exec (.call nnn) s = raise .callStackOverflow (encode (.call nnn)) s.pc s := dif_neg h

theorem exec_waitForKey_none {s : State} (x : RegIdx) (h : leastKey s = none) :
    exec (.waitForKey x) s = blocked s := by
  simp only [exec, execWaitForKey, h]

theorem exec_waitForKey_some {s : State} (x : RegIdx) {k : RegIdx} (h : leastKey s = some k) :
    exec (.waitForKey x) s = done (advance (setReg s x (BitVec.ofNat 8 k.val))) := by
  simp only [exec, execWaitForKey, h]

/-- What return pops: the entry below `SP`, with nothing added (41_control_transfer.md R102). -/
theorem top_resume_eq (s : State) (h : 0 < s.sp.val) :
    ∃ k : Fin 16, k.val + 1 = s.sp.val ∧ top s h + retResumeOffset = s.stack[k] :=
  ⟨⟨s.sp.val - 1, by omega⟩, by simp only; omega, BitVec.add_zero _⟩

/-- A skip as one record, whichever way its condition goes. -/
theorem done_skipIf (c : Bool) (s : State) :
    done (skipIf c s) = .next (timerPhase { s with pc := if c then s.pc + 4 else s.pc + 2 }) := by
  rw [skipIf_eq, done]

theorem next_skipIf {c : Bool} {s t : State} (h : done (skipIf c s) = .next t) :
    t = timerPhase { s with pc := if c then s.pc + 4 else s.pc + 2 } := by
  rwa [skipIf_eq, done_next] at h

/-! ## Register frames -/

theorem sameRegsBut_of_v_eq {P : RegIdx → Prop} {s t : State} (h : t.v = s.v) : SameRegsBut P s t :=
  fun r _ => reg_congr h r

/-- A state whose register file is the one `setReg` leaves differs in that register at most. -/
theorem sameRegsBut_of_setReg {P : RegIdx → Prop} {s t : State} {x : RegIdx} {b : Byte}
    (h : t.v = (setReg s x b).v) (hx : P x) : SameRegsBut P s t := by
  intro r hr
  have hne : r ≠ x := fun e => hr (e ▸ hx)
  rw [reg_congr h, reg_setReg, if_neg hne]

/-- The same for a result and a flag. -/
theorem sameRegsBut_of_setRegAndFlag {P : RegIdx → Prop} {s t : State} {x : RegIdx} {b f : Byte}
    (h : t.v = (setRegAndFlag s x b f).v) (hx : P x) (hf : P vf) : SameRegsBut P s t := by
  intro r hr
  have hne : r ≠ x := fun e => hr (e ▸ hx)
  have hnf : r ≠ vf := fun e => hr (e ▸ hf)
  rw [reg_congr h, reg_setRegAndFlag, if_neg hnf, if_neg hne]

/-- A register-load leaves the registers above its range. -/
theorem sameRegsBut_of_loadRegs {s t : State} {x : RegIdx} (h : t.v = (loadRegs (regsUpTo x) s).v) :
    SameRegsBut (· ≤ x) s t := by
  intro r hr
  rw [reg_congr h, reg_loadRegs, if_neg (by rwa [mem_regsUpTo])]

/-! ## How an operation ends its cycle -/

/-- How a cycle of operation `i` ends from `s`, by the pieces of state that it writes beside `pc` and the timers: a
completed cycle with its timer phase, a blocked one, or a halt (40_cycle_engine.md R81, R85 to R87). -/
inductive ExecEnds (s : State) (i : Instr) : State → Prop where
  /-- nothing, or V registers that the access matrix names -/
  | registers (v : Vector Byte 16) (pc : Word) (hv : SameRegsBut (mayWriteReg i) s { s with v := v }) :
      ExecEnds s i (timerPhase { s with v := v, pc := pc })
  /-- random: a register, and the draw is used up -/
  | draw (v : Vector Byte 16) (pc : Word) (hv : SameRegsBut (mayWriteReg i) s { s with v := v })
      (hi : ∃ x nn, i = .random x nn) :
      ExecEnds s i (timerPhase { s with v := v, pc := pc, draws := s.draws + 1 })
  /-- a run of bytes -/
  | memory (a : Nat) (bs : List Byte) (pc : Word) (hi : ∃ x, i = .bcdStore x ∨ i = .registerDump x) :
      ExecEnds s i (timerPhase { s with mem := memWriteRun s.mem a bs, pc := pc })
  /-- `I` -/
  | index (w pc : Word) (hi : (∃ nnn, i = .setIndex nnn) ∨ ∃ x, i = .addToIndex x ∨ i = .spriteAddress x) :
      ExecEnds s i (timerPhase { s with index := w, pc := pc })
  /-- `DT`, before the timer phase acts on it -/
  | delay (dt : Byte) (pc : Word) (hi : ∃ x, i = .setDelayTimer x) :
      ExecEnds s i (timerPhase { s with dt := dt, pc := pc })
  /-- `ST`, before the timer phase acts on it -/
  | sound (st : Byte) (pc : Word) (hi : ∃ x, i = .setSoundTimer x) :
      ExecEnds s i (timerPhase { s with st := st, pc := pc })
  /-- the frame buffer and `redraw`, and VF for a sprite -/
  | display (v : Vector Byte 16) (fb : FrameBuffer) (pc : Word)
      (hv : SameRegsBut (mayWriteReg i) s { s with v := v })
      (hi : i = .clearScreen ∨ ∃ x y n, i = .drawSprite x y n) :
      ExecEnds s i (timerPhase { s with v := v, fb := fb, redraw := true, pc := pc })
  /-- return: `SP` -/
  | pop (sp : Fin 17) (pc : Word) (hi : i = .ret) (hsp : 0 < s.sp.val) :
      ExecEnds s i (timerPhase { s with sp := sp, pc := pc })
  /-- call: an entry and `SP` -/
  | push (stack : Vector Word 16) (sp : Fin 17) (pc : Word) (hi : ∃ nnn, i = .call nnn) (hsp : s.sp.val < 16) :
      ExecEnds s i (timerPhase { s with stack := stack, sp := sp, pc := pc })
  /-- wait-for-key with no key pressed -/
  | blocked (hi : ∃ x, i = .waitForKey x) (hk : leastKey s = none) : ExecEnds s i s
  /-- return on an empty stack -/
  | underflow (hi : i = .ret) (hsp : s.sp.val = 0) :
      ExecEnds s i (raiseState .stackUnderflow 0x00EE#16 s.pc s)
  /-- call on a full stack -/
  | overflow (nnn : Addr12) (hi : i = .call nnn) (hsp : s.sp.val = 16) :
      ExecEnds s i (raiseState .callStackOverflow (encode (.call nnn)) s.pc s)

section
variable {s t : State} {i : Instr}

theorem execEnds_of_setReg {x : RegIdx} {b : Byte} (hx : mayWriteReg i x)
    (h : done (advance (setReg s x b)) = .next t) : ExecEnds s i t := by
  obtain rfl := (done_next _ _).mp h
  exact .registers _ _ (sameRegsBut_of_setReg rfl hx)

theorem execEnds_of_setRegAndFlag {x : RegIdx} {b f : Byte} (hx : mayWriteReg i x) (hf : mayWriteReg i vf)
    (h : done (advance (setRegAndFlag s x b f)) = .next t) : ExecEnds s i t := by
  obtain rfl := (done_next _ _).mp h
  exact .registers _ _ (sameRegsBut_of_setRegAndFlag rfl hx hf)

theorem execEnds_of_pc {pc : Word} (h : done { s with pc := pc } = .next t) : ExecEnds s i t := by
  obtain rfl := (done_next _ _).mp h
  exact .registers s.v pc (sameRegsBut_of_v_eq rfl)

theorem execEnds_of_skipIf {c : Bool} (h : done (skipIf c s) = .next t) : ExecEnds s i t :=
  execEnds_of_pc (skipIf_eq c s ▸ h)

theorem execEnds_of_writeRun {a : Nat} {bs : List Byte} (hi : ∃ x, i = .bcdStore x ∨ i = .registerDump x)
    (h : done (advance (writeRun s a bs)) = .next t) : ExecEnds s i t := by
  obtain rfl := (done_next _ _).mp h
  exact .memory a bs _ hi

theorem execEnds_of_setIndexReg {w : Word}
    (hi : (∃ nnn, i = .setIndex nnn) ∨ ∃ x, i = .addToIndex x ∨ i = .spriteAddress x)
    (h : done (advance (setIndexReg s w)) = .next t) : ExecEnds s i t := by
  obtain rfl := (done_next _ _).mp h
  exact .index w _ hi

end

theorem execEnds_ret {s t : State} (h : exec .ret s = .next t) : ExecEnds s .ret t := by
  by_cases hsp : 0 < s.sp.val
  · obtain rfl := (done_next _ _).mp (exec_ret_pop hsp ▸ h)
    exact .pop _ _ rfl hsp
  · obtain rfl := (raise_next _ _ _ _ _).mp (exec_ret_empty hsp ▸ h)
    exact .underflow rfl (by omega)

theorem execEnds_call {nnn : Addr12} {s t : State} (h : exec (.call nnn) s = .next t) : ExecEnds s (.call nnn) t := by
  by_cases hsp : s.sp.val < 16
  · obtain rfl := (done_next _ _).mp (exec_call_push nnn hsp ▸ h)
    exact .push _ _ _ ⟨nnn, rfl⟩ hsp
  · obtain rfl := (raise_next _ _ _ _ _).mp (exec_call_full nnn hsp ▸ h)
    exact .overflow nnn rfl (by omega)

theorem execEnds_waitForKey {x : RegIdx} {s t : State} (h : exec (.waitForKey x) s = .next t) :
    ExecEnds s (.waitForKey x) t := by
  cases hk : leastKey s with
  | none =>
    obtain rfl := (blocked_next _ _).mp (exec_waitForKey_none x hk ▸ h)
    exact .blocked ⟨x, rfl⟩ hk
  | some k => exact execEnds_of_setReg (x := x) rfl (exec_waitForKey_some x hk ▸ h)

theorem execEnds_registerLoad {x : RegIdx} {s t : State} (h : exec (.registerLoad x) s = .next t) :
    ExecEnds s (.registerLoad x) t := by
  obtain rfl := (done_next _ _).mp h
  rw [loadRegs_eq]
  exact .registers _ _ (sameRegsBut_of_loadRegs rfl)

/-- What an operation can do, said once for all 35 of them. -/
theorem exec_ends {i : Instr} {s t : State} (h : exec i s = .next t) : ExecEnds s i t := by
  cases i with
  | ret => exact execEnds_ret h
  | call nnn => exact execEnds_call h
  | waitForKey x => exact execEnds_waitForKey h
  | registerLoad x => exact execEnds_registerLoad h
  | legacyCall _ | jump _ | jumpIndexed _ => exact execEnds_of_pc h
  | skipEqConst _ _ | skipNeqConst _ _ | skipEqReg _ _ _ | skipNeqReg _ _ _ | skipIfKeyPressed _
  | skipIfKeyNotPressed _ => exact execEnds_of_skipIf h
  | setConst x _ | addConst x _ | assign x _ | orReg x _ | andReg x _ | xorReg x _ | getDelayTimer x =>
    exact execEnds_of_setReg (x := x) rfl h
  | addReg x _ | subReg x _ | shiftRight x _ | subReverse x _ | shiftLeft x _ =>
    exact execEnds_of_setRegAndFlag (x := x) (.inl rfl) (.inr rfl) h
  | setIndex nnn => exact execEnds_of_setIndexReg (.inl ⟨nnn, rfl⟩) h
  | addToIndex x => exact execEnds_of_setIndexReg (.inr ⟨x, .inl rfl⟩) h
  | spriteAddress x => exact execEnds_of_setIndexReg (.inr ⟨x, .inr rfl⟩) h
  | bcdStore x => exact execEnds_of_writeRun ⟨x, .inl rfl⟩ h
  | registerDump x => exact execEnds_of_writeRun ⟨x, .inr rfl⟩ h
  | setDelayTimer x =>
    obtain rfl := (done_next _ _).mp h
    exact .delay _ _ ⟨x, rfl⟩
  | setSoundTimer x =>
    obtain rfl := (done_next _ _).mp h
    exact .sound _ _ ⟨x, rfl⟩
  | random x nn =>
    obtain rfl := (done_next _ _).mp h
    exact .draw _ _ (sameRegsBut_of_setReg rfl (x := x) rfl) ⟨x, nn, rfl⟩
  | clearScreen =>
    obtain rfl := (done_next _ _).mp h
    exact .display s.v _ _ (sameRegsBut_of_v_eq rfl) (.inl rfl)
  | drawSprite x y n =>
    obtain rfl := (done_next _ _).mp h
    exact .display _ _ _ (sameRegsBut_of_setReg rfl (x := vf) rfl) (.inr ⟨x, y, n, rfl⟩)

/-! ## What a step does (40_cycle_engine.md R81) -/

theorem step_of_halted {s : State} (h : s.halted = true) : step s = .next s := by
  simp only [step, cycle, h, if_true, idle]

theorem step_of_running {s : State} (h : Running s) : step s = runDecoded (fetchWord s) s := by
  simp only [step, cycle, h, Bool.false_eq_true, if_false]

theorem step_of_decode {s : State} {i : Instr} (h : Running s) (hd : decode (fetchWord s) = .ok i) :
    step s = exec i s := by
  rw [step_of_running h, runDecoded, hd]

theorem step_of_reject {s : State} {r : Reject} (h : Running s) (hd : decode (fetchWord s) = .error r) :
    step s = raise .invalidInstruction (fetchWord s) s.pc s := by
  rw [step_of_running h, runDecoded, hd]

/-- What a step can do: nothing on a halted core, an illegal word's halt, or the decoded operation. -/
theorem step_cases {s t : State} (h : step s = .next t) :
    (s.halted = true ∧ t = s) ∨
    (Running s ∧ decode (fetchWord s) = .error (.noMatch (fetchWord s)) ∧
      t = raiseState .invalidInstruction (fetchWord s) s.pc s) ∨
    (Running s ∧ ∃ i, decode (fetchWord s) = .ok i ∧ exec i s = .next t) := by
  cases hs : s.halted with
  | true =>
    rw [step_of_halted hs] at h
    cases h
    exact .inl ⟨rfl, rfl⟩
  | false =>
    cases hd : decode (fetchWord s) with
    | error r =>
      obtain rfl := decode_error hd
      exact .inr (.inl ⟨hs, rfl, (raise_next _ _ _ _ _).mp (step_of_reject hs hd ▸ h)⟩)
    | ok i => exact .inr (.inr ⟨hs, i, rfl, step_of_decode hs hd ▸ h⟩)

end Sys2Proof.Machine
end

section
/-! The invariant `Inv`: reset has it, every step and every host action keeps it (10_state.md R26, R27). -/

namespace Sys2Proof.Machine

/-! ## The fault record -/

/-- A running core with a true record has recorded nothing. -/
theorem fault_empty_of_running {s : State} (hs : Running s) (h : RecordTrue s) : s.fault = .empty := by
  unfold RecordTrue at h
  split at h
  · exact h.2
  all_goals exact absurd (hs.symm.trans h.1) Bool.false_ne_true

theorem recordTrue_of_running {s : State} (hs : Running s) (hf : s.fault = .empty) : RecordTrue s := by
  rw [RecordTrue, hf]
  exact ⟨hs, rfl⟩

theorem recordTrue_invalidInstruction {s : State} {w : Word} (hd : decode w = .error (.noMatch w)) :
    RecordTrue (raiseState .invalidInstruction w s.pc s) := ⟨rfl, rfl, hd⟩

theorem recordTrue_stackUnderflow {s : State} (hsp : s.sp.val = 0) :
    RecordTrue (raiseState .stackUnderflow 0x00EE#16 s.pc s) := ⟨rfl, rfl, hsp, rfl⟩

theorem recordTrue_callStackOverflow {s : State} (nnn : Addr12) (hsp : s.sp.val = 16) :
    RecordTrue (raiseState .callStackOverflow (encode (.call nnn)) s.pc s) :=
  ⟨rfl, rfl, hsp, opField_wordAddr 0x2 nnn⟩

theorem recordTrue_programTooLarge (s : State) :
    RecordTrue (raiseState .programTooLarge 0x0000#16 0x0000#16 s) := ⟨rfl, rfl, rfl⟩

/-! ## Operations and steps keep the invariant -/

/-- An operation stores runs of bytes at most, so it keeps the canonical form. -/
theorem exec_keeps_wf {i : Instr} {s t : State} (hm : s.mem.wf = true) (h : exec i s = .next t) : t.mem.wf = true := by
  cases exec_ends h with
  | memory a bs pc hi => exact memWriteRun_wf bs a hm
  | _ => exact hm

/-- An operation that completes or blocks leaves the latch and the record; one that halts writes a true record. -/
theorem exec_keeps_recordTrue {i : Instr} {s t : State} (hs : Running s) (hr : RecordTrue s)
    (h : exec i s = .next t) : RecordTrue t := by
  have hf := fault_empty_of_running hs hr
  cases exec_ends h with
  | underflow hi hsp => exact recordTrue_stackUnderflow hsp
  | overflow nnn hi hsp => exact recordTrue_callStackOverflow nnn hsp
  | _ => exact recordTrue_of_running hs hf

/-- Settles O20: by cases on what a step does, the operations by the ways they end. -/
theorem everyStepKeepsInvariant : Obligations.EveryStepKeepsInvariant := by
  unfold Obligations.EveryStepKeepsInvariant
  intro s t ⟨hm, hr⟩ h
  rcases step_cases h with ⟨-, rfl⟩ | ⟨-, hd, rfl⟩ | ⟨hs, i, -, hx⟩
  · exact ⟨hm, hr⟩
  · exact ⟨hm, recordTrue_invalidInstruction hd⟩
  · exact ⟨exec_keeps_wf hm hx, exec_keeps_recordTrue hs hr hx⟩

/-! ## Reset, host actions and reachable states -/

/-- Settles O19: reset lists no cell and records nothing. -/
theorem resetMeetsInvariant : Obligations.ResetMeetsInvariant := by
  unfold Obligations.ResetMeetsInvariant
  exact ⟨rfl, recordTrue_of_running rfl rfl⟩

/-- A host action stores a run of bytes, halts with its own record, or touches nothing the invariant speaks of. -/
theorem hostAct_keeps_inv {s : State} (a : HostAction) (h : Inv s) : Inv (hostAct a s) := by
  obtain ⟨hm, hr⟩ := h
  cases a with
  | setKeys keys => exact ⟨hm, hr⟩
  | ackRedraw => exact ⟨hm, hr⟩
  | reset => exact ⟨rfl, recordTrue_of_running rfl rfl⟩
  | loadProgram image =>
    rcases Nat.lt_or_ge 3584 image.length with hlen | hlen
    · rw [hostAct, hostLoadProgram_tooLarge hlen]
      exact ⟨hm, recordTrue_programTooLarge s⟩
    · rw [hostAct, hostLoadProgram_fits hlen]
      exact ⟨memWriteRun_wf image _ hm, hr⟩

/-- Settles O22: by induction on how the state is reached. -/
theorem reachableStatesMeetInvariant : Obligations.ReachableStatesMeetInvariant := by
  unfold Obligations.ReachableStatesMeetInvariant
  intro s h
  induction h with
  | reset => exact resetMeetsInvariant
  | cycle _ hstep ih => exact everyStepKeepsInvariant _ _ ih hstep
  | host a _ ih => exact hostAct_keeps_inv a ih

end Sys2Proof.Machine
end

section
/-! How `pc` moves (10_state.md R15) and which pieces of state an operation writes (R28). -/

namespace Sys2Proof.Machine

/-! ## The forms of `pc` -/

theorem atNext_of_advance {s t u : State} (h : done (advance u) = .next t) (hu : u.pc = s.pc) : AtNext s t := by
  obtain rfl := (done_next _ _).mp h
  rw [AtNext, timerPhase_pc, advance_toNat, hu]

theorem atNext_or_atSkip_of_skipIf {s t : State} {c : Bool} (h : done (skipIf c s) = .next t) :
    AtNext s t ∨ AtSkip s t := by
  obtain rfl := (done_next _ _).mp h
  rw [AtNext, AtSkip, timerPhase_pc, skipIf_toNat]
  cases c
  · exact .inl rfl
  · exact .inr rfl

theorem waitForKey_atNext_or_same {x : RegIdx} {s t : State} (h : exec (.waitForKey x) s = .next t) :
    AtNext s t ∨ t = s := by
  cases hk : leastKey s with
  | none => exact .inr ((blocked_next _ _).mp (exec_waitForKey_none x hk ▸ h))
  | some k =>
    rw [exec_waitForKey_some x hk] at h
    exact .inl (atNext_of_advance h rfl)

theorem addrOperand_toNat (nnn : Addr12) : (addrOperand nnn).toNat = nnn.toNat := by
  have := nnn.isLt
  simp only [addrOperand, BitVec.toNat_setWidth]
  omega

/-- The sum of jump-indexed is below 65536, so it never wraps (41_control_transfer.md R109). -/
theorem addrOperand_add_byteOperand_toNat (nnn : Addr12) (b : Byte) :
    (addrOperand nnn + byteOperand b).toNat = nnn.toNat + b.toNat := by
  have := nnn.isLt
  have := b.isLt
  simp only [BitVec.toNat_add, addrOperand_toNat, byteOperand, BitVec.toNat_setWidth]
  omega

theorem jump_pc {nnn : Addr12} {s t : State} (h : exec (.jump nnn) s = .next t) : t.pc.toNat = nnn.toNat := by
  obtain rfl := (done_next _ _).mp h
  exact addrOperand_toNat nnn

theorem jumpIndexed_pc {nnn : Addr12} {s t : State} (h : exec (.jumpIndexed nnn) s = .next t) :
    t.pc.toNat = nnn.toNat + (reg s 0).toNat := by
  obtain rfl := (done_next _ _).mp h
  exact addrOperand_add_byteOperand_toNat nnn (reg s 0)

/-- A call goes to its address, or halts on a full stack. -/
theorem call_pc {nnn : Addr12} {s t : State} (h : exec (.call nnn) s = .next t) :
    (t.pc.toNat = nnn.toNat ∧ s.sp.val < 16) ∨ (t.pc = s.pc ∧ t.halted = true ∧ s.sp.val = 16) := by
  by_cases hsp : s.sp.val < 16
  · obtain rfl := (done_next _ _).mp (exec_call_push nnn hsp ▸ h)
    exact .inl ⟨addrOperand_toNat nnn, hsp⟩
  · obtain rfl := (raise_next _ _ _ _ _).mp (exec_call_full nnn hsp ▸ h)
    exact .inr ⟨rfl, rfl, by omega⟩

/-- A return goes to the entry below `SP`, or halts on an empty stack. -/
theorem ret_pc {s t : State} (h : exec .ret s = .next t) :
    (∃ k : Fin 16, k.val + 1 = s.sp.val ∧ t.pc = s.stack[k]) ∨
      (t.pc = s.pc ∧ t.halted = true ∧ s.sp.val = 0) := by
  by_cases hsp : 0 < s.sp.val
  · obtain rfl := (done_next _ _).mp (exec_ret_pop hsp ▸ h)
    exact .inl (top_resume_eq s hsp)
  · obtain rfl := (raise_next _ _ _ _ _).mp (exec_ret_empty hsp ▸ h)
    exact .inr ⟨rfl, rfl, by omega⟩

/-- Settles O17: the four operations with a target, the skips and wait-for-key each by their lemma; every other
operation advances. -/
theorem pcMovesInItsTableForm : Obligations.PcMovesInItsTableForm := by
  unfold Obligations.PcMovesInItsTableForm
  intro i s t h
  cases i with
  | jump nnn => exact .inl ⟨nnn, jump_pc h, .inl rfl⟩
  | jumpIndexed nnn => exact .inr (.inl ⟨nnn, rfl, jumpIndexed_pc h⟩)
  | call nnn =>
    rcases call_pc h with ⟨hpc, hsp⟩ | ⟨hpc, hhalt, hsp⟩
    · exact .inl ⟨nnn, hpc, .inr ⟨rfl, hsp⟩⟩
    · exact .inr (.inr (.inr ⟨hpc, hhalt, .inr ⟨nnn, rfl, hsp⟩⟩))
  | ret =>
    rcases ret_pc h with hpop | ⟨hpc, hhalt, hsp⟩
    · exact .inr (.inr (.inl ⟨rfl, hpop⟩))
    · exact .inr (.inr (.inr ⟨hpc, hhalt, .inl ⟨rfl, hsp⟩⟩))
  | waitForKey x => exact waitForKey_atNext_or_same h
  | skipEqConst _ _ | skipNeqConst _ _ | skipEqReg _ _ _ | skipNeqReg _ _ _ | skipIfKeyPressed _
  | skipIfKeyNotPressed _ => exact atNext_or_atSkip_of_skipIf h
  | registerLoad x => exact atNext_of_advance h (loadRegs_pc _ _)
  | _ => exact atNext_of_advance h rfl

/-! ## The access matrix -/

theorem mayWrite_of_reg_ne {P : RegIdx → Prop} {s t : State} (h : SameRegsBut P s t) (r : RegIdx)
    (hr : reg t r ≠ reg s r) : P r :=
  not_not.mp (mt (h r) hr)

/-- Settles O18: each way an operation can end writes the pieces that its constructor names, and those alone. -/
theorem execWritesOnlyWhatTheAccessMatrixNames : Obligations.ExecWritesOnlyWhatTheAccessMatrixNames := by
  unfold Obligations.ExecWritesOnlyWhatTheAccessMatrixNames
  intro i s t h
  cases exec_ends h with
  | registers v pc hv => exact ⟨mayWrite_of_reg_ne hv, by simp [readByte]⟩
  | draw v pc hv hi => exact ⟨mayWrite_of_reg_ne hv, by simp [readByte, hi]⟩
  | memory a bs pc hi => simp [reg, hi]
  | index w pc hi => simp [reg, readByte, hi]
  | delay dt pc hi => simp [reg, readByte]
  | sound st pc hi => simp [reg, readByte]
  | display v fb pc hv hi => exact ⟨mayWrite_of_reg_ne hv, by simp [readByte, hi]⟩
  | pop sp pc hi hsp => simp [reg, readByte, hi]
  | push stack sp pc hi hsp => simp [reg, readByte, hi]
  | blocked hi hk => simp
  | underflow hi hsp => simp [reg, readByte, hi]
  | overflow nnn hi hsp => simp [reg, readByte, hi]

end Sys2Proof.Machine
end

section
/-! Two runs that differ in the sound timer and the redraw flag, or in the keys (10_state.md R18, R20, R21, R28). -/

namespace Sys2Proof.Machine

/-! ## The sound timer and the redraw flag -/

section
variable {i : Instr} {s t : State} (st : Byte) (redraw : Bool)

theorem exec_ret_with_soundRedraw (h : exec .ret s = .next t) : ∃ st' redraw',
    exec .ret { s with st := st, redraw := redraw } = .next { t with st := st', redraw := redraw' } := by
  by_cases hsp : 0 < s.sp.val
  · obtain rfl := (done_next _ _).mp (exec_ret_pop hsp ▸ h)
    exact ⟨_, _, exec_ret_pop (s := { s with st := st, redraw := redraw }) hsp⟩
  · obtain rfl := (raise_next _ _ _ _ _).mp (exec_ret_empty hsp ▸ h)
    exact ⟨_, _, exec_ret_empty hsp⟩

theorem exec_call_with_soundRedraw {nnn : Addr12} (h : exec (.call nnn) s = .next t) : ∃ st' redraw',
    exec (.call nnn) { s with st := st, redraw := redraw } = .next { t with st := st', redraw := redraw' } := by
  by_cases hsp : s.sp.val < 16
  · obtain rfl := (done_next _ _).mp (exec_call_push nnn hsp ▸ h)
    exact ⟨_, _, exec_call_push (s := { s with st := st, redraw := redraw }) nnn hsp⟩
  · obtain rfl := (raise_next _ _ _ _ _).mp (exec_call_full nnn hsp ▸ h)
    exact ⟨_, _, exec_call_full nnn hsp⟩

theorem exec_waitForKey_with_soundRedraw {x : RegIdx} (h : exec (.waitForKey x) s = .next t) : ∃ st' redraw',
    exec (.waitForKey x) { s with st := st, redraw := redraw } = .next { t with st := st', redraw := redraw' } := by
  cases hk : leastKey s with
  | none =>
    obtain rfl := (blocked_next _ _).mp (exec_waitForKey_none x hk ▸ h)
    exact ⟨_, _, exec_waitForKey_none x hk⟩
  | some k =>
    obtain rfl := (done_next _ _).mp (exec_waitForKey_some x hk ▸ h)
    exact ⟨_, _, exec_waitForKey_some x hk⟩

theorem loadRegs_with_soundRedraw (rs : List RegIdx) (s : State) :
    loadRegs rs { s with st := st, redraw := redraw } = { loadRegs rs s with st := st, redraw := redraw } := by
  induction rs generalizing s with
  | nil => rfl
  | cons r rest ih => exact ih (setReg s r (readByte s (indexedAddr s r.val)))

/-- No operation reads the sound timer or the redraw flag. -/
theorem exec_with_soundRedraw (h : exec i s = .next t) : ∃ st' redraw',
    exec i { s with st := st, redraw := redraw } = .next { t with st := st', redraw := redraw' } := by
  cases i with
  | ret => exact exec_ret_with_soundRedraw st redraw h
  | call nnn => exact exec_call_with_soundRedraw st redraw h
  | waitForKey x => exact exec_waitForKey_with_soundRedraw st redraw h
  | registerLoad x =>
    obtain rfl := (done_next _ _).mp h
    refine ⟨tick st, redraw, ?_⟩
    rw [exec, execRegisterLoad, loadRegs_with_soundRedraw]
    rfl
  | skipEqConst _ _ | skipNeqConst _ _ | skipEqReg _ _ _ | skipNeqReg _ _ _ | skipIfKeyPressed _
  | skipIfKeyNotPressed _ =>
    obtain rfl := next_skipIf h
    exact ⟨_, _, done_skipIf _ _⟩
  | _ =>
    obtain rfl := (done_next _ _).mp h
    exact ⟨_, _, rfl⟩

end

/-- Settles O56: the fetch, the decoder and every operation take their way without `ST` and `redraw`. -/
theorem soundTimerAndRedrawReachNothingElse : Obligations.SoundTimerAndRedrawReachNothingElse := by
  unfold Obligations.SoundTimerAndRedrawReachNothingElse
  intro s t st redraw h
  rcases step_cases h with ⟨hs, rfl⟩ | ⟨hs, hd, rfl⟩ | ⟨hs, i, hd, hx⟩
  · exact ⟨st, redraw, step_of_halted hs⟩
  · exact ⟨st, redraw, step_of_reject hs hd⟩
  · obtain ⟨st', redraw', hx'⟩ := exec_with_soundRedraw st redraw hx
    exact ⟨st', redraw', (step_of_decode (s := { s with st := st, redraw := redraw }) hs hd).trans hx'⟩

/-! ## The keys -/

section
variable {s t : State} (keys : Vector Bool 16)

theorem exec_ret_with_key (h : exec .ret s = .next t) :
    exec .ret { s with key := keys } = .next { t with key := keys } := by
  by_cases hsp : 0 < s.sp.val
  · obtain rfl := (done_next _ _).mp (exec_ret_pop hsp ▸ h)
    exact exec_ret_pop (s := { s with key := keys }) hsp
  · obtain rfl := (raise_next _ _ _ _ _).mp (exec_ret_empty hsp ▸ h)
    exact exec_ret_empty hsp

theorem exec_call_with_key {nnn : Addr12} (h : exec (.call nnn) s = .next t) :
    exec (.call nnn) { s with key := keys } = .next { t with key := keys } := by
  by_cases hsp : s.sp.val < 16
  · obtain rfl := (done_next _ _).mp (exec_call_push nnn hsp ▸ h)
    exact exec_call_push (s := { s with key := keys }) nnn hsp
  · obtain rfl := (raise_next _ _ _ _ _).mp (exec_call_full nnn hsp ▸ h)
    exact exec_call_full nnn hsp

theorem loadRegs_with_key (rs : List RegIdx) (s : State) :
    loadRegs rs { s with key := keys } = { loadRegs rs s with key := keys } := by
  induction rs generalizing s with
  | nil => rfl
  | cons r rest ih => exact ih (setReg s r (readByte s (indexedAddr s r.val)))

end

/-- Settles O57: the three key operations are excluded; no other operation looks at the keys. -/
theorem keysReachOnlyKeyOperations : Obligations.KeysReachOnlyKeyOperations := by
  unfold Obligations.KeysReachOnlyKeyOperations
  intro i s t keys hi h
  cases i with
  | skipIfKeyPressed x => exact absurd rfl (hi x).1
  | skipIfKeyNotPressed x => exact absurd rfl (hi x).2.1
  | waitForKey x => exact absurd rfl (hi x).2.2
  | ret => exact exec_ret_with_key keys h
  | call nnn => exact exec_call_with_key keys h
  | registerLoad x =>
    obtain rfl := (done_next _ _).mp h
    rw [exec, execRegisterLoad, loadRegs_with_key]
    rfl
  | skipEqConst _ _ | skipNeqConst _ _ | skipEqReg _ _ _ | skipNeqReg _ _ _ =>
    obtain rfl := next_skipIf h
    exact done_skipIf _ _
  | _ =>
    obtain rfl := (done_next _ _).mp h
    rfl

end Sys2Proof.Machine
end

section
/-! The values after reset (10_state.md R26), and what is left to the host on a halted core (R27 (d)). -/

namespace Sys2Proof.Machine

theorem readByte_reset (a : Nat) : readByte State.reset a = unlisted (a % 4096) := rfl

theorem fontRom_length : fontRom.length = 80 := by decide

/-- Outside the font an unlisted cell is 0. -/
theorem unlisted_outside_font {a : Nat} (h : a < 0x050 ∨ 0x09F < a) : unlisted a = 0x00#8 := by
  rw [unlisted_eq]
  split
  · exact List.getD_eq_default _ _ (by rw [fontRom_length]; omega)
  · rfl

/-- The font stands at 0x050 upward. -/
theorem unlisted_font {k : Nat} (h : k < fontRom.length) : unlisted (0x050 + k) = fontRom[k] := by
  rw [unlisted_eq, if_pos (by omega), Nat.add_sub_cancel_left, List.getD_eq_getElem _ _ h]

/-- Settles O23: memory by the two lemmas on unlisted cells, the rest by the reset state's fields. -/
theorem resetStateHasTabledValues : Obligations.ResetStateHasTabledValues := by
  unfold Obligations.ResetStateHasTabledValues
  refine ⟨fun a ha => ?_, ⟨fontRom_length, fun k hk => ?_⟩, fun r => ?_, fun k => ?_, pixelOf_blankFrame,
    rfl, rfl, rfl, rfl, rfl, rfl, fun k => ?_, rfl, rfl⟩
  · rw [readByte_reset, unlisted_outside_font ha]
  · have hmod : (0x050 + k) % 4096 = 0x050 + k := Nat.mod_eq_of_lt (by rw [fontRom_length] at hk; omega)
    rw [readByte_reset, hmod, unlisted_font hk]
  · exact Vector.getElem_replicate r.isLt
  · exact Vector.getElem_replicate k.isLt
  · exact Vector.getElem_replicate k.isLt

/-- Settles O28: the idle cycle, and each action's own effect. -/
theorem haltedCoreKeepsAllButHostInputs : Obligations.HaltedCoreKeepsAllButHostInputs := by
  unfold Obligations.HaltedCoreKeepsAllButHostInputs
  intro s hs
  refine ⟨step_of_halted hs, fun keys => hostAct_setKeys keys s, hostAct_ackRedraw s, fun image hlen => ?_,
    fun image hlen => ?_⟩
  · exact ⟨_, hostLoadProgram_fits hlen s⟩
  · rw [hostAct, hostLoadProgram_tooLarge hlen, raiseState, hs]

end Sys2Proof.Machine
end

section
/-! Bytes put in memory and the word fetched from them (20_memory.md R42, R43, R53). -/

namespace Sys2Proof.Machine

/-! ## Reading back a run of bytes -/

/-- The `k`-th byte of a run is what a read of the `k`-th address finds, however that address is written (R41, R43). -/
theorem readByte_writeRun_of_getElem? (s : State) {a b k : Nat} {bs : List Byte} {c : Byte} (hlen : bs.length ≤ 4096)
    (hk : bs[k]? = some c) (hb : b % 4096 = (a + k) % 4096) : readByte (writeRun s a bs) b = c := by
  obtain ⟨hlt, -⟩ := List.getElem?_eq_some_iff.mp hk
  have hoff : (b + 4096 - a % 4096) % 4096 = k := by omega
  rw [readByte_writeRun s a b bs hlen, hoff, if_pos hlt, List.getD_eq_getElem?_getD, hk, Option.getD_some]

/-- A register-dump puts `V[r]` at `I + r` (43_index_memory.md R145). -/
theorem readByte_of_exec_registerDump {x r : RegIdx} {s t : State} {b : Nat} (h : exec (.registerDump x) s = .next t)
    (hr : r ≤ x) (hb : b % 4096 = (indexedAddr s r.val) % 4096) : readByte t b = reg s r := by
  obtain rfl := (done_next _ _).mp h
  have hlen : ((regsUpTo x).map (reg s)).length ≤ 4096 := by
    rw [List.length_map, regsUpTo_length]
    omega
  have hk : ((regsUpTo x).map (reg s))[r.val]? = some (reg s r) := by
    rw [List.getElem?_map, regsUpTo_getElem?, dif_pos (Fin.le_def.mp hr), Option.map_some]
  exact readByte_writeRun_of_getElem? s hlen hk hb

theorem pc_of_exec_registerDump {x : RegIdx} {s t : State} (h : exec (.registerDump x) s = .next t) :
    t.pc.toNat = (s.pc.toNat + 2) % 65536 := by
  obtain rfl := (done_next _ _).mp h
  exact advance_toNat _

/-! ## The fetched word -/

/-- Two bytes side by side as a number: the digits of the base 256. -/
theorem byte_append_toNat (hi lo : Byte) : (hi ++ lo).toNat = 256 * hi.toNat + lo.toNat := by
  rw [BitVec.toNat_append, Nat.shiftLeft_eq, Nat.mul_comm, ← Nat.two_pow_add_eq_or_of_lt lo.isLt]

/-- Settles O8: the word is the two bytes side by side. -/
theorem fetchIsBigEndian : Obligations.FetchIsBigEndian := by
  unfold Obligations.FetchIsBigEndian
  intro s
  exact byte_append_toNat _ _

/-- A word is its high byte above its low byte. -/
theorem highByte_append_lowByte (w : Word) : w.extractLsb' 8 8 ++ w.extractLsb' 0 8 = w :=
  (BitVec.extractLsb'_append_extractLsb'_eq_extractLsb' rfl).trans BitVec.extractLsb'_eq_self

/-- The placed word is the one fetched, at every `pc` (log entry 20). -/
theorem fetchWord_placeWord (s : State) (w : Word) : fetchWord (placeWord s w) = w := by
  have hlen : [w.extractLsb' 8 8, w.extractLsb' 0 8].length ≤ 4096 := by simp
  have hhigh : readByte (placeWord s w) s.pc.toNat = w.extractLsb' 8 8 :=
    readByte_writeRun_of_getElem? (k := 0) s hlen rfl rfl
  have hlow : readByte (placeWord s w) (s.pc.toNat + 1) = w.extractLsb' 0 8 :=
    readByte_writeRun_of_getElem? (k := 1) s hlen rfl rfl
  calc fetchWord (placeWord s w)
      = readByte (placeWord s w) s.pc.toNat ++ readByte (placeWord s w) (s.pc.toNat + 1) := rfl
    _ = w := by rw [hhigh, hlow, highByte_append_lowByte]

/-- The host's reading of a 16-bit table word is the decoder's. -/
theorem decode_of_decodeTableWord {w : Nat} {i : Instr} (h : decodeTableWord 16 w = some i) :
    decode (BitVec.ofNat 16 (w % 2 ^ 16)) = .ok i := by
  have hbytes : BitVec.ofNat 8 (w % 2 ^ 16 / 256) ++ BitVec.ofNat 8 (w % 2 ^ 16) = BitVec.ofNat 16 (w % 2 ^ 16) := by
    apply BitVec.eq_of_toNat_eq
    rw [byte_append_toNat, BitVec.toNat_ofNat, BitVec.toNat_ofNat, BitVec.toNat_ofNat]
    omega
  rw [decodeTableWord, decodeBytes, hbytes] at h
  cases hd : decode (BitVec.ofNat 16 (w % 2 ^ 16)) with
  | error r =>
    rw [hd] at h
    cases h
  | ok j =>
    rw [hd] at h
    cases h
    rfl

/-- Settles O9: the placed state runs, fetches the word and decodes it. -/
theorem placedWordIsRunByTheNextStep : Obligations.PlacedWordIsRunByTheNextStep := by
  unfold Obligations.PlacedWordIsRunByTheNextStep
  intro s w i h
  have hd : decode (fetchWord (s.withFetchWord 16 w)) = .ok i := by
    rw [State.withFetchWord, fetchWord_placeWord, decode_of_decodeTableWord h]
  exact step_of_decode rfl hd

/-- Settles O47: `pc` comes to stand at `I` modulo 4096, where the dump put `V[0]` and `V[1]`. -/
theorem storedWordIsFetchedByNextCycle : Obligations.StoredWordIsFetchedByNextCycle := by
  unfold Obligations.StoredWordIsFetchedByNextCycle
  intro x s t hx hpc h
  have hnext := pc_of_exec_registerDump h
  have hhigh : readByte t t.pc.toNat = reg s 0 :=
    readByte_of_exec_registerDump h (Fin.zero_le x) (by rw [indexedAddr, Fin.val_zero]; omega)
  have hlow : readByte t (t.pc.toNat + 1) = reg s 1 :=
    readByte_of_exec_registerDump h hx (by rw [indexedAddr, Fin.val_one]; omega)
  rw [fetchWord, hhigh, hlow]

end Sys2Proof.Machine
end

section
/-! Encoding and decoding (30_encoding.md R60 to R68): words and well-formed instructions determine each other, the
rejected words are the illegal ones, and the opcode map names what the decoder gives. -/

namespace Sys2Proof.Machine

/-! ## A word from its fields, some of them known -/

theorem wordAddr_of_op {w : Word} {op : Nibble} (h : opField w = op) : wordAddr op (nnnField w) = w := by
  rw [← h, wordAddr_fields]

theorem wordXnn_of_op {w : Word} {op : Nibble} (h : opField w = op) : wordXnn op (xField w) (nnField w) = w := by
  rw [← h, wordXnn_fields]

theorem wordXnn_of_op_nn {w : Word} {op : Nibble} {nn : Byte} (h : opField w = op) (hnn : nnField w = nn) :
    wordXnn op (xField w) nn = w := by
  rw [← hnn, wordXnn_of_op h]

theorem wordXyn_of_op {w : Word} {op : Nibble} (h : opField w = op) :
    wordXyn op (xField w) (yField w) (nField w) = w := by
  rw [← h, wordXyn_fields]

theorem wordXyn_of_op_n {w : Word} {op n : Nibble} (h : opField w = op) (hn : nField w = n) :
    wordXyn op (xField w) (yField w) n = w := by
  rw [← hn, wordXyn_of_op h]

/-! ## The selecting fields as numbers -/

theorem opField_eq_iff {w : Word} {op : Nibble} : opField w = op ↔ w.toNat / 4096 = op.toNat := by
  rw [← BitVec.toNat_inj, opField_toNat]

theorem nField_eq_iff {w : Word} {n : Nibble} : nField w = n ↔ w.toNat % 16 = n.toNat := by
  rw [← BitVec.toNat_inj, nField, BitVec.extractLsb'_toNat, Nat.shiftRight_zero]

theorem nnField_eq_iff {w : Word} {nn : Byte} : nnField w = nn ↔ w.toNat % 256 = nn.toNat := by
  rw [← BitVec.toNat_inj, nnField, BitVec.extractLsb'_toNat, Nat.shiftRight_zero]

/-! ## Decoding the word of an instruction -/

theorem wordAddr_inj {op : Nibble} {a b : Addr12} (h : wordAddr op a = wordAddr op b) : a = b := by
  simpa using congrArg nnnField h

/-- A well-formed legacy call has neither the word of clear-screen nor that of return (R65). -/
theorem decode_wordAddr_zero {nnn : Addr12} (h : WellFormed (.legacyCall nnn) = true) :
    decode (wordAddr 0x0#4 nnn) = .ok (.legacyCall nnn) := by
  obtain ⟨hclear, hret⟩ : nnn ≠ 0x0E0#12 ∧ nnn ≠ 0x0EE#12 := by simpa [WellFormed] using h
  have hclear' : wordAddr 0x0#4 nnn ≠ 0x00E0#16 := mt (wordAddr_inj (b := 0x0E0#12)) hclear
  have hret' : wordAddr 0x0#4 nnn ≠ 0x00EE#16 := mt (wordAddr_inj (b := 0x0EE#12)) hret
  simp [decode, decodeFamily0, hclear', hret']

/-- Settles O1: by the format of the word, whose fields are the operands it was built from. -/
theorem decodeOfEncodeIsIdentity : Obligations.DecodeOfEncodeIsIdentity := by
  unfold Obligations.DecodeOfEncodeIsIdentity
  intro i h
  cases i with
  | clearScreen | ret => rfl
  | legacyCall nnn => exact decode_wordAddr_zero h
  | jump _ | call _ | setIndex _ | jumpIndexed _ => simp [encode, decode]
  | skipEqConst _ _ | skipNeqConst _ _ | setConst _ _ | addConst _ _ | random _ _ => simp [encode, decode]
  | skipEqReg _ _ _ | skipNeqReg _ _ _ | drawSprite _ _ _ => simp [encode, decode]
  | assign _ _ | orReg _ _ | andReg _ _ | xorReg _ _ | addReg _ _ | subReg _ _ | shiftRight _ _ | subReverse _ _
  | shiftLeft _ _ => simp [encode, decode, decodeFamily8]
  | skipIfKeyPressed _ | skipIfKeyNotPressed _ => simp [encode, decode, decodeFamilyE]
  | getDelayTimer _ | waitForKey _ | setDelayTimer _ | setSoundTimer _ | addToIndex _ | spriteAddress _ | bcdStore _
  | registerDump _ | registerLoad _ => simp [encode, decode, decodeFamilyF]

/-! ## What the decoder's answer says of the word -/

/-- The answer fits the word: an instruction is well-formed and encodes to it, and only an illegal word is rejected. -/
def AnswerFits (w : Word) : Except Reject Instr → Prop
  | .ok i => encode i = w ∧ WellFormed i = true
  | .error _ => IllegalWord w

theorem answerFits_ite {w : Word} {c : Prop} [Decidable c] {a b : Except Reject Instr} (ha : c → AnswerFits w a)
    (hb : ¬ c → AnswerFits w b) : AnswerFits w (if c then a else b) := by
  split
  case isTrue h => exact ha h
  case isFalse h => exact hb h

theorem decodeFamily0_fits {w : Word} (h : opField w = 0x0#4) : AnswerFits w (decodeFamily0 w) := by
  refine answerFits_ite (fun hw => ⟨hw.symm, rfl⟩) fun hclear => ?_
  refine answerFits_ite (fun hw => ⟨hw.symm, rfl⟩) fun hret => ?_
  have hw : wordAddr 0x0#4 (nnnField w) = w := wordAddr_of_op h
  have hclear' : nnnField w ≠ 0x0E0#12 := fun hn => hclear (by rw [← hw, hn]; rfl)
  have hret' : nnnField w ≠ 0x0EE#12 := fun hn => hret (by rw [← hw, hn]; rfl)
  exact ⟨hw, by simp [WellFormed, hclear', hret']⟩

theorem decodeFamily8_fits {w : Word} (h : opField w = 0x8#4) : AnswerFits w (decodeFamily8 w) := by
  unfold decodeFamily8
  iterate 9 refine answerFits_ite (fun hn => ⟨wordXyn_of_op_n h hn, rfl⟩) fun _ => ?_
  refine .inl ⟨opField_eq_iff.mp h, ?_⟩
  simp only [nField_eq_iff, BitVec.toNat_ofNat, List.mem_cons, List.not_mem_nil, or_false] at *
  omega

theorem decodeFamilyE_fits {w : Word} (h : opField w = 0xE#4) : AnswerFits w (decodeFamilyE w) := by
  unfold decodeFamilyE
  iterate 2 refine answerFits_ite (fun hnn => ⟨wordXnn_of_op_nn h hnn, rfl⟩) fun _ => ?_
  refine .inr (.inl ⟨opField_eq_iff.mp h, ?_⟩)
  simp only [nnField_eq_iff, BitVec.toNat_ofNat, List.mem_cons, List.not_mem_nil, or_false] at *
  omega

theorem decodeFamilyF_fits {w : Word} (h : opField w = 0xF#4) : AnswerFits w (decodeFamilyF w) := by
  unfold decodeFamilyF
  iterate 9 refine answerFits_ite (fun hnn => ⟨wordXnn_of_op_nn h hnn, rfl⟩) fun _ => ?_
  refine .inr (.inr ⟨opField_eq_iff.mp h, ?_⟩)
  simp only [nnField_eq_iff, BitVec.toNat_ofNat, List.mem_cons, List.not_mem_nil, or_false] at *
  omega

/-- Along the decoder's cases on the leading nibble: each gives the format of that nibble, or its family. -/
theorem decode_fits (w : Word) : AnswerFits w (decode w) := by
  unfold decode
  refine answerFits_ite decodeFamily0_fits fun _ => ?_
  iterate 2 refine answerFits_ite (fun h => ⟨wordAddr_of_op h, rfl⟩) fun _ => ?_
  iterate 2 refine answerFits_ite (fun h => ⟨wordXnn_of_op h, rfl⟩) fun _ => ?_
  refine answerFits_ite (fun h => ⟨wordXyn_of_op h, rfl⟩) fun _ => ?_
  iterate 2 refine answerFits_ite (fun h => ⟨wordXnn_of_op h, rfl⟩) fun _ => ?_
  refine answerFits_ite decodeFamily8_fits fun _ => ?_
  refine answerFits_ite (fun h => ⟨wordXyn_of_op h, rfl⟩) fun _ => ?_
  iterate 2 refine answerFits_ite (fun h => ⟨wordAddr_of_op h, rfl⟩) fun _ => ?_
  refine answerFits_ite (fun h => ⟨wordXnn_of_op h, rfl⟩) fun _ => ?_
  refine answerFits_ite (fun h => ⟨wordXyn_of_op h, rfl⟩) fun _ => ?_
  refine answerFits_ite decodeFamilyE_fits fun _ => decodeFamilyF_fits ?_
  bv_omega

/-- Settles O2: an instruction that the decoder answers fits the word. -/
theorem encodeOfDecodeIsIdentity : Obligations.EncodeOfDecodeIsIdentity := by
  unfold Obligations.EncodeOfDecodeIsIdentity
  intro w i h
  have hfits := decode_fits w
  rwa [h] at hfits

/-- The family of an illegal word finds its selector at none of the tests (R67). -/
theorem decode_of_illegalWord {w : Word} (h : IllegalWord w) : decode w = .error (.noMatch w) := by
  obtain ⟨hop, hn⟩ | ⟨hop, hnn⟩ | ⟨hop, hnn⟩ := h
  · simp only [List.mem_cons, List.not_mem_nil, or_false] at hn
    rcases hn with hn | hn | hn | hn | hn | hn | hn <;>
      simp [decode, decodeFamily8, opField_eq_iff, nField_eq_iff, hop, hn]
  · simp only [List.mem_cons, List.not_mem_nil, or_false, not_or] at hnn
    simp [decode, decodeFamilyE, opField_eq_iff, nnField_eq_iff, hop, hnn]
  · simp only [List.mem_cons, List.not_mem_nil, or_false, not_or] at hnn
    simp [decode, decodeFamilyF, opField_eq_iff, nnField_eq_iff, hop, hnn]

/-- Settles O3: a rejection fits the word only if the word is illegal, and an illegal word is rejected. -/
theorem noMatchExactlyOnIllegalWords : Obligations.NoMatchExactlyOnIllegalWords := by
  unfold Obligations.NoMatchExactlyOnIllegalWords
  refine fun w => ⟨fun h => ?_, decode_of_illegalWord⟩
  have hfits := decode_fits w
  rwa [h] at hfits

/-! ## What a row of the opcode map looks at, by its mask -/

theorem word_eq_iff {w v : Word} : w = v ↔ w.toNat / 4096 = v.toNat / 4096 ∧ w.toNat % 4096 = v.toNat % 4096 := by
  rw [← BitVec.toNat_inj]
  omega

theorem and_FFFF_eq_iff {w v : Word} :
    w &&& 0xFFFF#16 = v ↔ w.toNat / 4096 = v.toNat / 4096 ∧ w.toNat % 4096 = v.toNat % 4096 := by
  have hmask : w &&& 0xFFFF#16 = w := BitVec.and_allOnes
  rw [hmask, word_eq_iff]

/-- The leading nibble. -/
theorem and_F000_eq_iff {w v : Word} :
    w &&& 0xF000#16 = v ↔ w.toNat / 4096 = v.toNat / 4096 ∧ v.toNat % 4096 = 0 := by
  have hmask : w &&& 0xF000#16 = wordAddr (opField w) 0#12 := by
    conv_lhs => rw [← wordAddr_fields w]
    exact wordAddr_maskF000 _ _
  rw [hmask, ← BitVec.toNat_inj, wordAddr_toNat, opField_toNat, BitVec.toNat_ofNat]
  omega

/-- The leading nibble and the trailing byte. -/
theorem and_F0FF_eq_iff {w v : Word} :
    w &&& 0xF0FF#16 = v ↔ w.toNat / 4096 = v.toNat / 4096 ∧ w.toNat % 256 = v.toNat % 4096 := by
  have hmask : w &&& 0xF0FF#16 = wordXnn (opField w) 0 (nnField w) := by
    conv_lhs => rw [← wordXnn_fields w]
    exact wordXnn_maskF0FF _ _ _
  rw [hmask, ← BitVec.toNat_inj, wordXnn_toNat, opField_toNat, ← nnField_eq_iff.mp rfl, Fin.val_zero]
  omega

/-- The leading and the trailing nibble. -/
theorem and_F00F_eq_iff {w v : Word} :
    w &&& 0xF00F#16 = v ↔ w.toNat / 4096 = v.toNat / 4096 ∧ w.toNat % 16 = v.toNat % 4096 := by
  have hmask : w &&& 0xF00F#16 = wordXyn (opField w) 0 0 (nField w) := by
    conv_lhs => rw [← wordXyn_fields w]
    exact wordXyn_maskF00F _ _ _ _
  rw [hmask, ← BitVec.toNat_inj, wordXyn_toNat, opField_toNat, ← nField_eq_iff.mp rfl, Fin.val_zero]
  omega

/-! ## The map and the decoder side by side, as chains of tests that give a name -/

/-- The name of the first of some rows that selects the word. -/
def firstName (rows : List OpcodeRow) (w : Word) : Option String :=
  (rows.find? (fun row => w &&& row.mask == row.value)).map OpcodeRow.mnemonic

theorem firstName_opcodeMap (w : Word) : firstName opcodeMap w = opcodeMapName w := rfl

@[simp] theorem firstName_nil (w : Word) : firstName [] w = none := rfl

@[simp] theorem firstName_cons (row : OpcodeRow) (rows : List OpcodeRow) (w : Word) : firstName (row :: rows) w =
    if w &&& row.mask = row.value then some row.mnemonic else firstName rows w := by
  by_cases h : w &&& row.mask = row.value <;> simp [firstName, h]

/-- The name in an answer of the decoder. -/
def answerName : Except Reject Instr → Option String
  | .ok i => some (mnemonicOf i)
  | .error _ => none

@[simp] theorem answerName_ok (i : Instr) : answerName (.ok i) = some (mnemonicOf i) := rfl

@[simp] theorem answerName_error (r : Reject) : answerName (.error r) = none := rfl

@[simp] theorem answerName_ite (c : Prop) [Decidable c] (a b : Except Reject Instr) :
    answerName (if c then a else b) = if c then answerName a else answerName b := apply_ite _ _ _ _

/-- Both chains test the leading nibble and a family's selector. Once the leading nibble is known, the rows of the
other families drop out, and the tests that are left are the same, in the same order. -/
theorem opcodeMapName_eq_answerName (w : Word) : opcodeMapName w = answerName (decode w) := by
  have hop : w.toNat / 4096 < 16 := Nat.div_lt_of_lt_mul w.isLt
  simp only [← firstName_opcodeMap, opcodeMap, List.cons_append, List.nil_append, firstName_cons, firstName_nil,
    BitVec.ofNat_eq_ofNat, and_FFFF_eq_iff, and_F000_eq_iff, and_F0FF_eq_iff, and_F00F_eq_iff]
  simp only [decode, decodeFamily0, decodeFamily8, decodeFamilyE, decodeFamilyF, answerName_ite, answerName_ok,
    answerName_error, mnemonicOf, opField_eq_iff, nField_eq_iff, nnField_eq_iff, word_eq_iff (w := w)]
  interval_cases w.toNat / 4096 <;> simp

/-- Settles O4: the name the map gives is the one in the decoder's answer. -/
theorem decoderAgreesWithOpcodeMap : Obligations.DecoderAgreesWithOpcodeMap := by
  unfold Obligations.DecoderAgreesWithOpcodeMap
  intro w
  rw [opcodeMapName_eq_answerName]
  cases decode w <;> rfl

/-! ## Sample words and ignored bits -/

/-- Settles O5: a legal word is the word of its operation, the other two are illegal. -/
theorem sampleWordsDecodeAsEncoded : Obligations.SampleWordsDecodeAsEncoded := by
  unfold Obligations.SampleWordsDecodeAsEncoded
  have legal := decodeOfEncodeIsIdentity
  exact ⟨legal .clearScreen rfl, legal .ret rfl, legal (.legacyCall 0x123) rfl, legal (.call 0x300) rfl,
    legal (.skipEqConst 10 0x42) rfl, legal (.subReverse 1 2) rfl, decode_of_illegalWord (by decide),
    legal (.setIndex 0x2F0) rfl, legal (.drawSprite 1 2 5) rfl, legal (.skipIfKeyPressed 4) rfl,
    decode_of_illegalWord (by decide), legal (.waitForKey 3) rfl, legal (.registerLoad 2) rfl⟩

/-- Settles O6: none of the five meanings names its ignored argument. -/
theorem ignoredBitsHaveNoEffect : Obligations.IgnoredBitsHaveNoEffect := by
  unfold Obligations.IgnoredBitsHaveNoEffect
  intro s x y n m a b u v
  exact ⟨rfl, rfl, rfl, rfl, rfl⟩

end Sys2Proof.Machine
end

section
/-! The cycle engine (40_cycle_engine.md): every cycle answers a next state, a halted core stays as it is, and the
timers follow completed cycles only. -/

namespace Sys2Proof.Machine

/-! ## Every cycle answers a next state (R81) -/

/-- Every meaning answers a next state: the three operations that look at the stack or the keys on both their
branches, every other one by completing its cycle. -/
theorem exec_answers_next (i : Instr) (s : State) : ∃ t, exec i s = .next t := by
  cases i with
  | ret =>
    by_cases hsp : 0 < s.sp.val
    · exact ⟨_, exec_ret_pop hsp⟩
    · exact ⟨_, exec_ret_empty hsp⟩
  | call nnn =>
    by_cases hsp : s.sp.val < 16
    · exact ⟨_, exec_call_push nnn hsp⟩
    · exact ⟨_, exec_call_full nnn hsp⟩
  | waitForKey x =>
    cases hk : leastKey s with
    | none => exact ⟨_, exec_waitForKey_none x hk⟩
    | some k => exact ⟨_, exec_waitForKey_some x hk⟩
  | _ => exact ⟨_, rfl⟩

/-- Settles O12: a halted core idles, an illegal word is raised, and every operation answers. -/
theorem everyCycleAnswersNextState : Obligations.EveryCycleAnswersNextState := by
  unfold Obligations.EveryCycleAnswersNextState
  intro s
  cases hs : s.halted with
  | true => exact ⟨s, step_of_halted hs⟩
  | false =>
    cases hd : decode (fetchWord s) with
    | error r => exact ⟨_, step_of_reject hs hd⟩
    | ok i =>
      rw [step_of_decode hs hd]
      exact exec_answers_next i s

/-- Settles O7: with the latch clear and a word that decodes, a cycle is the operation. -/
theorem stepRunsDecodedInstruction : Obligations.StepRunsDecodedInstruction := by
  unfold Obligations.StepRunsDecodedInstruction
  intro s i hs hd
  exact step_of_decode hs hd

/-! ## Cycles of a halted core (R88) -/

/-- A run goes on from the state that its first step answers. -/
theorem run_succ_of_step {s t : State} (k : Nat) (h : step s = .next t) : core.run (k + 1) s = core.run k t := by
  simp only [Host.Core.run, core, h]

/-- Settles O11: by induction on the number of cycles, each of them idle. -/
theorem haltedCoreIgnoresCycles : Obligations.HaltedCoreIgnoresCycles := by
  unfold Obligations.HaltedCoreIgnoresCycles
  intro k s hs
  induction k with
  | zero => rfl
  | succ k ih => rw [run_succ_of_step k (step_of_halted hs), ih]

/-! ## The timer phase (R85 to R87) -/

/-- The timers over one operation: left alone by a halt, left with everything else by a blocked cycle, and counted down
by a completed one, but for the timer that the operation sets. -/
theorem exec_timers {i : Instr} {s t : State} (hs : Running s) (h : exec i s = .next t) :
    (t.halted = true ∧ t.dt = s.dt ∧ t.st = s.st) ∨
    ((∃ x, i = .waitForKey x) ∧ (∀ k, keyDown s k = false) ∧ t = s) ∨
    (t.halted = false ∧ ((¬ ∃ x, i = .setDelayTimer x) → t.dt.toNat = s.dt.toNat - 1) ∧
      ((¬ ∃ x, i = .setSoundTimer x) → t.st.toNat = s.st.toNat - 1)) := by
  cases exec_ends h with
  | underflow hi hsp => exact .inl ⟨rfl, rfl, rfl⟩
  | overflow nnn hi hsp => exact .inl ⟨rfl, rfl, rfl⟩
  | blocked hi hk => exact .inr (.inl ⟨hi, (leastKey_none s).mp hk, rfl⟩)
  | delay dt pc hi => exact .inr (.inr ⟨hs, fun hn => absurd hi hn, fun _ => tick_toNat s.st⟩)
  | sound st pc hi => exact .inr (.inr ⟨hs, fun _ => tick_toNat s.dt, fun hn => absurd hi hn⟩)
  | _ => exact .inr (.inr ⟨hs, fun _ => tick_toNat s.dt, fun _ => tick_toNat s.st⟩)

/-- With no key pressed wait-for-key leaves the state as it is. -/
theorem waitForKey_same_of_no_key {x : RegIdx} {s t : State} (hk : ∀ k, keyDown s k = false)
    (h : exec (.waitForKey x) s = .next t) : t = s :=
  (blocked_next _ _).mp (exec_waitForKey_none x ((leastKey_none s).mpr hk) ▸ h)

/-- Settles O15: an illegal word halts and is no wait-for-key; an operation halts, blocks or completes as `exec_timers`
says. -/
theorem timerPhaseFollowsCompletedCyclesOnly : Obligations.TimerPhaseFollowsCompletedCyclesOnly := by
  unfold Obligations.TimerPhaseFollowsCompletedCyclesOnly
  intro s t hs h
  rcases step_cases h with ⟨hhalt, -⟩ | ⟨-, hd, rfl⟩ | ⟨-, i, hd, hx⟩
  · exact absurd (hs.symm.trans hhalt) Bool.false_ne_true
  · simp [hd]
  · simp only [hd, Except.ok.injEq]
    have hblock : ((∃ x, i = .waitForKey x) ∧ ∀ k, keyDown s k = false) → t = s :=
      fun ⟨⟨x, hi⟩, hk⟩ => waitForKey_same_of_no_key hk (hi ▸ hx)
    rcases exec_timers hs hx with ⟨hhalt, htimers⟩ | ⟨hi, hk, rfl⟩ | ⟨hrun, htimers⟩
    · exact ⟨fun _ => htimers, hblock, fun hrun => absurd (hrun.symm.trans hhalt) Bool.false_ne_true⟩
    · exact ⟨fun _ => ⟨rfl, rfl⟩, hblock, fun _ hnb => absurd ⟨hi, hk⟩ hnb⟩
    · exact ⟨fun hhalt => absurd (hrun.symm.trans hhalt) Bool.false_ne_true, hblock, fun _ _ => htimers⟩

/-- Settles O36: the jump's target is `pc` itself, so the timer phase is all that is left (R93). -/
theorem spinJumpChangesOnlyTimers : Obligations.SpinJumpChangesOnlyTimers := by
  unfold Obligations.SpinJumpChangesOnlyTimers
  intro nnn s hs hd hpc
  have htarget : addrOperand nnn = s.pc := BitVec.eq_of_toNat_eq ((addrOperand_toNat nnn).trans hpc.symm)
  have hjump : exec (.jump nnn) s = done (jumpTo s s.pc) := htarget ▸ rfl
  exact ⟨tick s.dt, tick s.st, (step_of_decode hs hd).trans hjump, tick_toNat _, tick_toNat _⟩

end Sys2Proof.Machine
end

section
/-! The host's actions between cycles (40_cycle_engine.md R89, R90). -/

namespace Sys2Proof.Machine

/-- Settles O21: each action by its own case. -/
theorem hostActionsKeepInvariant : Obligations.HostActionsKeepInvariant := by
  unfold Obligations.HostActionsKeepInvariant
  intro s a h
  exact hostAct_keeps_inv a h

/-! ## LoadProgram (R90) -/

/-- An image that fits writes memory alone. -/
theorem hostAct_loadProgram_fits {image : List Byte} (h : image.length ≤ 3584) (s : State) :
    hostAct (.loadProgram image) s = writeRun s 0x200 image := hostLoadProgram_fits h s

/-- An image that does not fit halts the core. -/
theorem hostAct_loadProgram_tooLarge {image : List Byte} (h : 3584 < image.length) (s : State) :
    hostAct (.loadProgram image) s = raiseState .programTooLarge 0x0000#16 0x0000#16 s :=
  hostLoadProgram_tooLarge h s

/-- A run of bytes that ends inside the memory leaves every byte below its start and from its end on. -/
theorem readByte_writeRun_outside (s : State) {a b : Nat} {bs : List Byte} (hfit : a + bs.length ≤ 4096)
    (hb : b % 4096 < a ∨ a + bs.length ≤ b % 4096) : readByte (writeRun s a bs) b = readByte s b := by
  rw [readByte_writeRun s a b bs (by omega), if_neg (by omega)]

/-- Settles O24: the image is a run of bytes that ends inside the memory. -/
theorem loadProgramCopiesVerbatim : Obligations.LoadProgramCopiesVerbatim := by
  unfold Obligations.LoadProgramCopiesVerbatim
  intro image s hlen
  rw [hostAct_loadProgram_fits hlen]
  refine ⟨fun k hk => ?_, fun a ha => ?_, _, rfl⟩
  · exact readByte_writeRun_of_getElem? s (by omega) (List.getElem?_eq_getElem hk) rfl
  · exact readByte_writeRun_outside s (by omega) ha

/-- Settles O25: what is left of the load is the raised condition. -/
theorem loadProgramTooLargeHalts : Obligations.LoadProgramTooLargeHalts := by
  unfold Obligations.LoadProgramTooLargeHalts
  intro image s hlen
  exact hostAct_loadProgram_tooLarge hlen s

/-! ## What each action leaves unchanged (R89) -/

/-- A load of any image writes memory, the latch and the record at most, and never clears the latch. -/
theorem hostAct_loadProgram_frame (image : List Byte) (s : State) :
    ∃ m h f, hostAct (.loadProgram image) s = { s with mem := m, halted := h, fault := f } ∧
      (s.halted = true → h = true) := by
  rcases Nat.lt_or_ge 3584 image.length with hlen | hlen
  · exact ⟨s.mem, true, _, hostAct_loadProgram_tooLarge hlen s, fun _ => rfl⟩
  · exact ⟨_, s.halted, s.fault, hostAct_loadProgram_fits hlen s, id⟩

/-- Settles O27: the four actions one by one. -/
theorem hostActionsChangeOnlyTheirPart : Obligations.HostActionsChangeOnlyTheirPart := by
  unfold Obligations.HostActionsChangeOnlyTheirPart
  intro s keys image
  exact ⟨hostAct_setKeys keys s, hostAct_ackRedraw s, hostAct_loadProgram_frame image s, rfl⟩

end Sys2Proof.Machine
end

section
/-! Control transfer (41_control_transfer.md): where each operation takes `pc`, and that a completed one writes nothing
else but the timers, and the stack for call and return. -/

namespace Sys2Proof.Machine

/-! ## Frames of a completed cycle -/

/-- The timer phase after an operation that sets neither timer (40_cycle_engine.md R85). -/
theorem timersTicked_timerPhase {s u : State} (hdt : u.dt = s.dt) (hst : u.st = s.st) :
    TimersTicked s (timerPhase u) := by
  rw [TimersTicked, timerPhase_dt, timerPhase_st, tick_toNat, tick_toNat, hdt, hst]
  exact ⟨rfl, rfl⟩

/-- A completed cycle that writes V registers and `pc`. -/
theorem onlyRegs_timerPhase {P : RegIdx → Prop} {s : State} {v : Vector Byte 16} (pc : Word)
    (hv : SameRegsBut P s { s with v := v }) : OnlyRegs P s (timerPhase { s with v := v, pc := pc }) :=
  ⟨hv, rfl, fun _ => rfl, ⟨rfl, rfl⟩, ⟨rfl, rfl⟩, ⟨rfl, rfl, rfl⟩, timersTicked_timerPhase rfl rfl⟩

/-- A completed cycle that writes `pc` alone. -/
theorem onlyRegs_timerPhase_pc (s : State) (pc : Word) : OnlyRegs NoReg s (timerPhase { s with pc := pc }) :=
  onlyRegs_timerPhase pc (sameRegsBut_of_v_eq rfl)

/-- A completed cycle that writes the call stack, its pointer and `pc`. -/
theorem onlyStack_timerPhase (s : State) (stack : Vector Word 16) (sp : Fin 17) (pc : Word) :
    OnlyStack s (timerPhase { s with stack := stack, sp := sp, pc := pc }) :=
  ⟨sameRegsBut_of_v_eq rfl, rfl, fun _ => rfl, ⟨rfl, rfl⟩, ⟨rfl, rfl, rfl⟩, timersTicked_timerPhase rfl rfl⟩

/-! ## Jumps and legacy-call (R101, R103, R109) -/

/-- Settles O29: the target by `jump_pc`, the rest by the frame of a cycle that writes `pc` alone. -/
theorem jumpSetsPcToItsAddress : Obligations.JumpSetsPcToItsAddress := by
  unfold Obligations.JumpSetsPcToItsAddress
  intro nnn s
  exact ⟨_, rfl, jump_pc rfl, onlyRegs_timerPhase_pc s _⟩

/-- Settles O35: as for jump, with the sum that never wraps for the one and an advance for the other. -/
theorem jumpIndexedAndLegacyCallMovePc : Obligations.JumpIndexedAndLegacyCallMovePc := by
  unfold Obligations.JumpIndexedAndLegacyCallMovePc
  intro nnn s
  exact ⟨⟨_, rfl, jumpIndexed_pc rfl, onlyRegs_timerPhase_pc s _⟩,
    ⟨_, rfl, atNext_of_advance rfl rfl, onlyRegs_timerPhase_pc s _⟩⟩

/-! ## Call and return (R102, R104) -/

/-- The word of a call as a number (30_encoding.md R65). -/
theorem encode_call (nnn : Addr12) : encode (.call nnn) = BitVec.ofNat 16 (0x2000 + nnn.toNat) := by
  have hlt := nnn.isLt
  have hop : (0x2 : Nibble).toNat = 2 := rfl
  apply BitVec.eq_of_toNat_eq
  rw [encode, wordAddr_toNat, hop, BitVec.toNat_ofNat]
  omega

/-- Settles O30: the two branches of call, the full stack's with the word written as a number. -/
theorem callPushesItsOwnAddressOrOverflows : Obligations.CallPushesItsOwnAddressOrOverflows := by
  unfold Obligations.CallPushesItsOwnAddressOrOverflows
  refine fun nnn s => ⟨fun hroom => ?_, fun hfull => ?_⟩
  · exact ⟨_, exec_call_push nnn hroom, addrOperand_toNat nnn, rfl,
      fun k => push_entry s s.pc hroom k k.isLt, onlyStack_timerPhase s _ _ _⟩
  · rw [exec_call_full nnn (by omega), encode_call]
    rfl

/-- Settles O31: the two branches of return; the entry that `top_resume_eq` names is the only one just below `SP`. -/
theorem returnPopsOrUnderflows : Obligations.ReturnPopsOrUnderflows := by
  unfold Obligations.ReturnPopsOrUnderflows
  refine fun s => ⟨fun hsome => ?_, fun hempty => exec_ret_empty (by omega)⟩
  refine ⟨_, exec_ret_pop hsome, Nat.sub_add_cancel hsome, rfl, fun k hk => ?_, onlyStack_timerPhase s _ _ _⟩
  obtain ⟨j, hj, hentry⟩ := top_resume_eq s hsome
  obtain rfl : k = j := Fin.ext (by omega)
  exact hentry

/-! ## The register skips (R105 to R108) -/

/-- A conditional skip goes to `skip` or `advance` as its condition says and writes nothing else. -/
theorem done_skipIf_follows (c : Bool) (s : State) : ∃ t, done (skipIf c s) = .next t ∧
    (if c then AtSkip s t else AtNext s t) ∧ OnlyRegs NoReg s t := by
  refine ⟨_, done_skipIf c s, ?_, onlyRegs_timerPhase_pc s _⟩
  cases c with
  | false => exact advance_toNat s
  | true => exact skip_toNat s

/-- A skip on equality of two bytes. -/
theorem done_skipIf_beq (a b : Byte) (s : State) : ∃ t, done (skipIf (a == b) s) = .next t ∧
    (if a = b then AtSkip s t else AtNext s t) ∧ OnlyRegs NoReg s t := by
  simpa only [beq_iff_eq] using done_skipIf_follows (a == b) s

/-- A skip on inequality of two bytes: the same with the two ways exchanged. -/
theorem done_skipIf_bne (a b : Byte) (s : State) : ∃ t, done (skipIf (a != b) s) = .next t ∧
    (if a = b then AtNext s t else AtSkip s t) ∧ OnlyRegs NoReg s t := by
  simpa only [bne_iff_ne, ne_eq, ite_not] using done_skipIf_follows (a != b) s

/-- Settles O33: the two comparisons of a register with the constant. -/
theorem skipsOnConstantFollowTheComparison : Obligations.SkipsOnConstantFollowTheComparison := by
  unfold Obligations.SkipsOnConstantFollowTheComparison
  intro x nn s
  exact ⟨done_skipIf_beq (reg s x) nn s, done_skipIf_bne (reg s x) nn s⟩

/-- Settles O34: the two comparisons of registers; the trailing nibble is not looked at. -/
theorem skipsOnRegistersFollowTheComparison : Obligations.SkipsOnRegistersFollowTheComparison := by
  unfold Obligations.SkipsOnRegistersFollowTheComparison
  intro x y _ s
  exact ⟨done_skipIf_beq (reg s x) (reg s y) s, done_skipIf_bne (reg s x) (reg s y) s⟩

end Sys2Proof.Machine
end

section
/-! Register and ALU operations (42_alu.md): the result in `V[x]`, the flag in VF, and nothing else written but `pc` and
the timers. -/

namespace Sys2Proof.Machine

/-! ## Flags as numbers (R120) -/

theorem flag_toNat (c : Bool) : (flag c).toNat = c.toNat := by
  cases c <;> rfl

theorem flag_decide_toNat (p : Prop) [Decidable p] : (flag (decide p)).toNat = if p then 1 else 0 := by
  rw [flag_toNat, Bool.toNat, Bool.cond_decide]

/-- Two bytes sum to 510 at most, so the carry is the sum's digit at 256. -/
theorem carryFlag_toNat (a b : Byte) : (carryFlag a b).toNat = (a.toNat + b.toNat) / 256 := by
  have ha := a.isLt
  have hb := b.isLt
  rw [carryFlag, flag_decide_toNat]
  split <;> omega

theorem notBorrowFlag_toNat (a b : Byte) : (notBorrowFlag a b).toNat = if b.toNat ≤ a.toNat then 1 else 0 :=
  flag_decide_toNat _

/-- A bit as a flag is the digit of the base 2 at its place. -/
theorem flag_getLsbD_toNat (a : Byte) (k : Nat) : (flag (a.getLsbD k)).toNat = a.toNat / 2 ^ k % 2 := by
  rw [flag_toNat, BitVec.getLsbD, Nat.toNat_testBit]

theorem lowBitFlag_toNat (a : Byte) : (lowBitFlag a).toNat = a.toNat % 2 := by
  rw [lowBitFlag, flag_getLsbD_toNat, Nat.pow_zero, Nat.div_one]

theorem highBitFlag_toNat (a : Byte) : (highBitFlag a).toNat = a.toNat / 128 := by
  have ha := a.isLt
  rw [highBitFlag, flag_getLsbD_toNat]
  omega

/-! ## Results as numbers (R120) -/

/-- The difference with the minuend in front, as R120 writes it. -/
theorem byte_sub_toNat (a b : Byte) : (a - b).toNat = (a.toNat + 256 - b.toNat) % 256 := by
  have hb := b.isLt
  rw [BitVec.toNat_sub]
  omega

theorem byte_shiftRight_one_toNat (a : Byte) : (a >>> 1).toNat = a.toNat / 2 := by
  rw [BitVec.toNat_ushiftRight, Nat.shiftRight_eq_div_pow, Nat.pow_one]

theorem byte_shiftLeft_one_toNat (a : Byte) : (a <<< 1).toNat = a.toNat * 2 % 256 := by
  rw [BitVec.toNat_shiftLeft, Nat.shiftLeft_eq, Nat.pow_one]

/-! ## A cycle that writes a register and advances -/

section
variable {s t : State} {x : RegIdx} {b f : Byte}

/-- The written register of a state whose register file is the one `setReg` leaves. -/
theorem reg_of_setReg (h : t.v = (setReg s x b).v) : reg t x = b := by
  rw [reg_congr h, reg_setReg, if_pos rfl]

theorem done_setReg (s : State) (x : RegIdx) (b : Byte) : ∃ t, done (advance (setReg s x b)) = .next t ∧
    reg t x = b ∧ AtNext s t ∧ OnlyRegs (fun r => r = x) s t :=
  ⟨_, rfl, reg_of_setReg rfl, atNext_of_advance rfl rfl, onlyRegs_timerPhase _ (sameRegsBut_of_setReg rfl rfl)⟩

/-- The same for a result that is known bit by bit. -/
theorem done_setReg_bits {p : Nat → Bool} (hb : ∀ k, b.getLsbD k = p k) :
    ∃ t, done (advance (setReg s x b)) = .next t ∧ (∀ k, (reg t x).getLsbD k = p k) ∧ AtNext s t ∧
      OnlyRegs (fun r => r = x) s t := by
  obtain ⟨t, ht, hx, hrest⟩ := done_setReg s x b
  exact ⟨t, ht, hx ▸ hb, hrest⟩

/-- A result and a flag that are known as numbers: the flag stands in VF whatever `x` is, the result in `V[x]` unless
that is VF (R121; decision D7). -/
theorem done_setRegAndFlag {m n : Nat} (hb : b.toNat = m) (hf : f.toNat = n) :
    ∃ t, done (advance (setRegAndFlag s x b f)) = .next t ∧ (x ≠ 15 → (reg t x).toNat = m) ∧
      (reg t 15).toNat = n ∧ AtNext s t ∧ OnlyRegs (fun r => r = x ∨ r = 15) s t := by
  have hread (r : RegIdx) : reg (timerPhase (advance (setRegAndFlag s x b f))) r =
      if r = vf then f else if r = x then b else reg s r :=
    (reg_congr rfl r).trans (reg_setRegAndFlag s x r b f)
  refine ⟨_, rfl, fun hx => ?_, ?_, atNext_of_advance rfl rfl,
    onlyRegs_timerPhase _ (sameRegsBut_of_setRegAndFlag rfl (.inl rfl) (.inr rfl))⟩
  · rw [hread, if_neg (show x ≠ vf from hx), if_pos rfl, hb]
  · rw [hread, if_pos (show 15 = vf from rfl), hf]

end

/-! ## Constants (R122, R123) -/

/-- Settles O37: both write `V[x]` and advance. -/
theorem constantsAreSetAndAdded : Obligations.ConstantsAreSetAndAdded := by
  unfold Obligations.ConstantsAreSetAndAdded
  refine fun x nn s => ⟨done_setReg s x nn, ?_⟩
  obtain ⟨t, ht, hx, hrest⟩ := done_setReg s x (reg s x + nn)
  exact ⟨t, ht, hx ▸ BitVec.toNat_add _ _, hrest⟩

/-! ## Family 8 (R124 to R132) -/

/-- Settles O38: assign writes `V[y]` itself; the other three write a byte whose bits the library gives. -/
theorem assignAndBitwiseOperationsActOnEachBit : Obligations.AssignAndBitwiseOperationsActOnEachBit := by
  unfold Obligations.AssignAndBitwiseOperationsActOnEachBit
  intro x y s
  exact ⟨done_setReg s x (reg s y), done_setReg_bits fun _ => BitVec.getLsbD_or,
    done_setReg_bits fun _ => BitVec.getLsbD_and, done_setReg_bits fun _ => BitVec.getLsbD_xor⟩

/-- Settles O39: the sum and the carry as numbers. -/
theorem addRegGivesSumAndCarry : Obligations.AddRegGivesSumAndCarry := by
  unfold Obligations.AddRegGivesSumAndCarry
  intro x y s
  exact done_setRegAndFlag (BitVec.toNat_add _ _) (carryFlag_toNat _ _)

/-- Settles O40: the difference and the NOT-borrow as numbers, in both orders of the operands. -/
theorem subtractionsGiveDifferenceAndNotBorrow : Obligations.SubtractionsGiveDifferenceAndNotBorrow := by
  unfold Obligations.SubtractionsGiveDifferenceAndNotBorrow
  intro x y s
  exact ⟨done_setRegAndFlag (byte_sub_toNat _ _) (notBorrowFlag_toNat _ _),
    done_setRegAndFlag (byte_sub_toNat _ _) (notBorrowFlag_toNat _ _)⟩

/-- Settles O41: the shifted byte and the bit shifted out as numbers. -/
theorem shiftsMoveOneBitIntoVF : Obligations.ShiftsMoveOneBitIntoVF := by
  unfold Obligations.ShiftsMoveOneBitIntoVF
  intro x _ s
  exact ⟨done_setRegAndFlag (byte_shiftRight_one_toNat _) (lowBitFlag_toNat _),
    done_setRegAndFlag (byte_shiftLeft_one_toNat _) (highBitFlag_toNat _)⟩

/-! ## Random (R133) -/

/-- The frame of random: beside the register and `pc` it moves `draws`, which is no state of the spec. -/
theorem onlyRegs_timerPhase_draws {P : RegIdx → Prop} {s : State} {v : Vector Byte 16} (pc : Word) (n : Nat)
    (hv : SameRegsBut P s { s with v := v }) :
    OnlyRegs P s (timerPhase { s with v := v, pc := pc, draws := n }) :=
  onlyRegs_timerPhase pc hv

/-- What random does, by its masked draw. -/
theorem exec_random (x : RegIdx) (nn : Byte) (s : State) : ∃ t, exec (.random x nn) s = .next t ∧
    reg t x = Config.freeRandomByte s.draws &&& nn ∧ t.draws = s.draws + 1 ∧ AtNext s t ∧
    OnlyRegs (fun r => r = x) s t :=
  ⟨_, rfl, reg_of_setReg rfl, rfl, atNext_of_advance rfl rfl,
    onlyRegs_timerPhase_draws _ _ (sameRegsBut_of_setReg rfl (x := x) rfl)⟩

/-- Settles O42: a bit of the masked draw needs the mask's bit, and a mask of 0 leaves none. -/
theorem randomMasksTheFreeDraw : Obligations.RandomMasksTheFreeDraw := by
  unfold Obligations.RandomMasksTheFreeDraw
  intro x nn s
  obtain ⟨t, ht, hx, hrest⟩ := exec_random x nn s
  refine ⟨t, ht, fun k => ?_, fun hnn => ?_, hrest⟩
  · rw [hx, BitVec.getLsbD_and]
  · rw [hx, hnn, BitVec.and_zero]

end Sys2Proof.Machine
end

section
/-! Index register and memory (43_index_memory.md): what each operation leaves in `I`, in memory or in the V registers,
and nothing else written but `pc` and the timers. -/

namespace Sys2Proof.Machine

/-! ## A cycle that writes `I` and advances -/

/-- The frame of a completed cycle that writes `I` and `pc`. -/
theorem onlyIndex_timerPhase (s : State) (w pc : Word) : OnlyIndex s (timerPhase { s with index := w, pc := pc }) :=
  ⟨sameRegsBut_of_v_eq rfl, fun _ => rfl, ⟨rfl, rfl⟩, ⟨rfl, rfl⟩, ⟨rfl, rfl, rfl⟩, timersTicked_timerPhase rfl rfl⟩

theorem done_setIndexReg (s : State) {w : Word} {n : Nat} (hw : w.toNat = n) :
    ∃ t, done (advance (setIndexReg s w)) = .next t ∧ t.index.toNat = n ∧ AtNext s t ∧ OnlyIndex s t :=
  ⟨_, rfl, hw, atNext_of_advance rfl rfl, onlyIndex_timerPhase s w _⟩

/-- Settles O43: the zero-extended address as a number (R141). -/
theorem setIndexLoadsItsAddress : Obligations.SetIndexLoadsItsAddress := by
  unfold Obligations.SetIndexLoadsItsAddress
  intro nnn s
  exact done_setIndexReg s (addrOperand_toNat nnn)

/-- `I` plus a zero-extended byte (R142; decision D8). -/
theorem add_byteOperand_toNat (w : Word) (b : Byte) : (w + byteOperand b).toNat = (w.toNat + b.toNat) % 65536 := by
  have hb : (byteOperand b).toNat = b.toNat := BitVec.toNat_setWidth_of_le (by decide)
  rw [BitVec.toNat_add, hb]

theorem lowNibble_val (b : Byte) : (lowNibble b).val = b.toNat % 16 := by
  rw [lowNibble, BitVec.val_toFin, BitVec.extractLsb'_toNat, Nat.shiftRight_zero]

/-- The glyphs end at 0x09F, so their addresses do not wrap (R143). -/
theorem glyphAddr_toNat (d : RegIdx) : (glyphAddr d).toNat = 0x050 + 5 * d.val := by
  have hd := d.isLt
  have hlt : 0x050 + 5 * d.val < 2 ^ 16 := by omega
  rw [glyphAddr, BitVec.toNat_ofNat]
  exact Nat.mod_eq_of_lt hlt

/-- Settles O44: the sum and the glyph's address as numbers. -/
theorem indexAdditionAndGlyphAddress : Obligations.IndexAdditionAndGlyphAddress := by
  unfold Obligations.IndexAdditionAndGlyphAddress
  intro x s
  have hglyph : (glyphAddr (lowNibble (reg s x))).toNat = 0x050 + 5 * ((reg s x).toNat % 16) := by
    rw [glyphAddr_toNat, lowNibble_val]
  exact ⟨done_setIndexReg s (add_byteOperand_toNat _ _), done_setIndexReg s hglyph⟩

/-! ## A cycle that writes a run of bytes and advances -/

/-- The frame of a completed cycle that writes memory and `pc`. -/
theorem onlyMemory_timerPhase (s : State) (mem : Memory) (pc : Word) :
    OnlyMemory s (timerPhase { s with mem := mem, pc := pc }) :=
  ⟨sameRegsBut_of_v_eq rfl, rfl, ⟨rfl, rfl⟩, ⟨rfl, rfl⟩, ⟨rfl, rfl, rfl⟩, timersTicked_timerPhase rfl rfl⟩

/-- A run leaves every byte at none of its addresses: one at an offset inside the run would be at one of them. -/
theorem sameMemoryBut_writeRun (s : State) (a : Nat) {bs : List Byte} (hlen : bs.length ≤ 4096) :
    SameMemoryBut a bs.length s (writeRun s a bs) := by
  intro b hb
  have hout : ¬ (b + 4096 - a % 4096) % 4096 < bs.length := fun hin => hb _ hin (by omega)
  rw [readByte_writeRun s a b bs hlen, if_neg hout]

theorem done_writeRun (s : State) (a : Nat) {bs : List Byte} (hlen : bs.length ≤ 4096) :
    ∃ t, done (advance (writeRun s a bs)) = .next t ∧ (∀ k c, bs[k]? = some c → readByte t (a + k) = c) ∧
      SameMemoryBut a bs.length s t ∧ AtNext s t ∧ OnlyMemory s t :=
  ⟨_, rfl, fun _ _ hk => readByte_writeRun_of_getElem? s hlen hk rfl, sameMemoryBut_writeRun s a hlen,
    atNext_of_advance rfl rfl, onlyMemory_timerPhase s _ _⟩

/-! ## Bcd-store (R144) -/

theorem bcdDigits_length (b : Byte) : (bcdDigits b).length = 3 := rfl

/-- Settles O45: the three bytes of the run, each below 256 as it is a digit. -/
theorem bcdStoreWritesThreeDigits : Obligations.BcdStoreWritesThreeDigits := by
  unfold Obligations.BcdStoreWritesThreeDigits
  intro x s
  have hv := (reg s x).isLt
  have hlen : (bcdDigits (reg s x)).length ≤ 4096 := by
    rw [bcdDigits_length]
    decide
  obtain ⟨t, ht, hread, hrest⟩ := done_writeRun s (indexedAddr s 0) hlen
  have hdigit {k n : Nat} (hk : (bcdDigits (reg s x))[k]? = some (BitVec.ofNat 8 n)) (hn : n < 2 ^ 8) :
      (readByte t (indexedAddr s k)).toNat = n := by
    have hbyte : readByte t (indexedAddr s k) = BitVec.ofNat 8 n := hread k _ hk
    rw [hbyte, BitVec.toNat_ofNat, Nat.mod_eq_of_lt hn]
  exact ⟨t, ht, hdigit rfl (by omega), hdigit rfl (by omega), hdigit rfl (by omega), hrest⟩

/-! ## Register-dump and register-load (R145, R146) -/

theorem exec_registerDump (x : RegIdx) (s : State) : ∃ t, exec (.registerDump x) s = .next t ∧
    (∀ r, r ≤ x → readByte t (indexedAddr s r.val) = reg s r) ∧
    SameMemoryBut (indexedAddr s 0) (x.val + 1) s t ∧ AtNext s t ∧ OnlyMemory s t := by
  have hlen : ((regsUpTo x).map (reg s)).length = x.val + 1 := by rw [List.length_map, regsUpTo_length]
  obtain ⟨t, ht, -, hframe, hrest⟩ :=
    done_writeRun s (indexedAddr s 0) (bs := (regsUpTo x).map (reg s)) (by omega)
  rw [hlen] at hframe
  exact ⟨t, ht, fun r hr => readByte_of_exec_registerDump ht hr rfl, hframe, hrest⟩

theorem exec_registerLoad (x : RegIdx) (s : State) : ∃ t, exec (.registerLoad x) s = .next t ∧
    (∀ r, r ≤ x → reg t r = readByte s (indexedAddr s r.val)) ∧ AtNext s t ∧ OnlyRegs (fun r => r ≤ x) s t := by
  refine ⟨_, rfl, fun r hr => ?_, atNext_of_advance rfl (loadRegs_pc _ s), ?_⟩
  · exact ((reg_congr rfl r).trans (reg_loadRegs _ s r)).trans (if_pos ((mem_regsUpTo x r).mpr hr))
  · rw [loadRegs_eq]
    exact onlyRegs_timerPhase _ (sameRegsBut_of_loadRegs rfl)

/-- The round trip: what a load from the same `I` and the same memory finds is what the dump put there. -/
theorem registerLoad_recovers_registerDump {x : RegIdx} {s t u : State}
    (hdump : ∀ r, r ≤ x → readByte t (indexedAddr s r.val) = reg s r) (hindex : u.index = s.index)
    (hmem : SameMemory t u) : ∃ w, exec (.registerLoad x) u = .next w ∧ ∀ r, r ≤ x → reg w r = reg s r := by
  obtain ⟨w, hw, hload, -⟩ := exec_registerLoad x u
  refine ⟨w, hw, fun r hr => ?_⟩
  calc reg w r
      = readByte u (indexedAddr u r.val) := hload r hr
    _ = readByte t (indexedAddr s r.val) := by rw [hmem, indexedAddr, indexedAddr, hindex]
    _ = reg s r := hdump r hr

/-- Settles O46: the dump, the load from what it left, and the load by itself. -/
theorem registerRangeDumpsAndLoads : Obligations.RegisterRangeDumpsAndLoads := by
  unfold Obligations.RegisterRangeDumpsAndLoads
  intro x s
  obtain ⟨t, ht, hdump, hframe, hnext, honly⟩ := exec_registerDump x s
  exact ⟨⟨t, ht, hdump, hframe, hnext, honly, fun _ => registerLoad_recovers_registerDump hdump⟩,
    exec_registerLoad x s⟩

end Sys2Proof.Machine
end

section
/-! Display (44_display.md): which pixels a sprite flips, its collision flag, and the redraw flag. -/

namespace Sys2Proof.Machine

/-! ## Frames of a display cycle -/

/-- A completed cycle that writes V registers, the frame buffer, `redraw` and `pc`. -/
theorem onlyDisplay_timerPhase {P : RegIdx → Prop} {s : State} {v : Vector Byte 16} (fb : FrameBuffer) (pc : Word)
    (hv : SameRegsBut P s { s with v := v }) :
    OnlyDisplay P s (timerPhase { s with v := v, fb := fb, redraw := true, pc := pc }) :=
  ⟨hv, rfl, fun _ => rfl, ⟨rfl, rfl⟩, ⟨rfl, rfl, rfl⟩, timersTicked_timerPhase rfl rfl⟩

/-- Settles O48: the blank frame's pixels, and the frame of a cycle that writes no register. -/
theorem clearScreenUnsetsEveryPixel : Obligations.ClearScreenUnsetsEveryPixel := by
  unfold Obligations.ClearScreenUnsetsEveryPixel
  intro s
  exact ⟨_, rfl, pixelOf_blankFrame, rfl, atNext_of_advance rfl rfl,
    onlyDisplay_timerPhase _ _ (sameRegsBut_of_v_eq rfl)⟩

/-! ## The cells of a sprite (R152)

A cell of a sprite is a pair of a row offset and a column offset from its corner at column `x0`, row `y0`. -/

/-- The cell over the pixel in column `px`, row `py`, measured round the torus (R150). -/
def cellOver (x0 y0 px py : Nat) : Nat × Nat := ((py + 32 - y0 % 32) % 32, (px + 64 - x0 % 64) % 64)

/-- The bit of a cell in the sprite at `addr`. -/
def cellBit (m : Memory) (addr : Nat) (c : Nat × Nat) : Bool := (memRead m (addr + c.1)).getLsbD (7 - c.2)

/-- The cells of a sprite of `n` rows, in the order in which they are drawn. -/
def spriteCells (n : Nat) : List (Nat × Nat) := List.range n ×ˢ List.range 8

/-- One cell drawn. -/
def drawCell (m : Memory) (addr x0 y0 : Nat) (acc : FrameBuffer × Bool) (c : Nat × Nat) : FrameBuffer × Bool :=
  drawBit x0 (y0 + c.1) (memRead m (addr + c.1)) acc c.2

theorem drawRows_eq_foldl_drawCell (m : Memory) (addr x0 y0 n : Nat) (fb : FrameBuffer) :
    drawRows m addr x0 y0 n fb = (spriteCells n).foldl (drawCell m addr x0 y0) (fb, false) := by
  simp only [drawRows, drawRow, spriteCells, SProd.sprod, List.product, List.foldl_flatMap, List.foldl_map, drawCell]

theorem mem_spriteCells {n : Nat} {c : Nat × Nat} : c ∈ spriteCells n ↔ c.1 < n ∧ c.2 < 8 := by
  rw [spriteCells, List.mem_product, List.mem_range, List.mem_range]

theorem spriteCells_nodup (n : Nat) : (spriteCells n).Nodup := List.nodup_range.product List.nodup_range

/-- The statements' own predicate: the cell over the pixel is one of the sprite's and its bit is set. -/
theorem spriteCovers_iff {s : State} {x0 y0 n px py : Nat} : spriteCovers s x0 y0 n px py = true ↔
    cellOver x0 y0 px py ∈ spriteCells n ∧ cellBit s.mem s.index.toNat (cellOver x0 y0 px py) = true := by
  rw [mem_spriteCells, and_comm (a := _ < n)]
  simp only [spriteCovers, Bool.and_eq_true, decide_eq_true_eq]
  rfl

/-- A cell inside the torus lies over exactly one pixel. -/
theorem cellOver_eq_iff {x0 y0 px py : Nat} {c : Nat × Nat} (hc : c.1 < 32 ∧ c.2 < 64) :
    cellOver x0 y0 px py = c ↔ py % 32 = (y0 + c.1) % 32 ∧ px % 64 = (x0 + c.2) % 64 := by
  rw [Prod.ext_iff, cellOver]
  omega

theorem pixelOf_congr {fb : FrameBuffer} {px py qx qy : Nat} (h : py % 32 = qy % 32 ∧ px % 64 = qx % 64) :
    pixelOf fb px py = pixelOf fb qx qy := by
  simp only [pixelOf, h]

/-! ## What drawing does to each pixel -/

theorem pixelOf_drawBit (x0 y : Nat) (b : Byte) (acc : FrameBuffer × Bool) (k px py : Nat) :
    pixelOf (drawBit x0 y b acc k).1 px py =
      (pixelOf acc.1 px py != (decide (py % 32 = y % 32 ∧ px % 64 = (x0 + k) % 64) && b.getLsbD (7 - k))) := by
  cases hb : b.getLsbD (7 - k) with
  | false => simp [drawBit, hb]
  | true =>
    by_cases hp : py % 32 = y % 32 ∧ px % 64 = (x0 + k) % 64
    · simp [drawBit, hb, pixelOf_setPixelOf, hp, pixelOf_congr hp]
    · simp [drawBit, hb, pixelOf_setPixelOf, hp]

theorem drawBit_collision_iff (x0 y : Nat) (b : Byte) (acc : FrameBuffer × Bool) (k : Nat) :
    (drawBit x0 y b acc k).2 = true ↔
      acc.2 = true ∨ b.getLsbD (7 - k) = true ∧ pixelOf acc.1 (x0 + k) y = true := by
  cases hb : b.getLsbD (7 - k) <;> simp [drawBit, hb]

section
variable (m : Memory) (addr x0 y0 : Nat)

theorem pixelOf_drawCell {c : Nat × Nat} (hc : c.1 < 32 ∧ c.2 < 64) (acc : FrameBuffer × Bool) (px py : Nat) :
    pixelOf (drawCell m addr x0 y0 acc c).1 px py =
      (pixelOf acc.1 px py != (decide (cellOver x0 y0 px py = c) && cellBit m addr c)) := by
  rw [decide_eq_decide.mpr (cellOver_eq_iff hc)]
  exact pixelOf_drawBit _ _ _ _ _ _ _

theorem pixelOf_drawCell_of_ne {c d : Nat × Nat} (hc : c.1 < 32 ∧ c.2 < 64) (hd : d.1 < 32 ∧ d.2 < 64)
    (hne : d ≠ c) (acc : FrameBuffer × Bool) :
    pixelOf (drawCell m addr x0 y0 acc c).1 (x0 + d.2) (y0 + d.1) = pixelOf acc.1 (x0 + d.2) (y0 + d.1) := by
  have hover : cellOver x0 y0 (x0 + d.2) (y0 + d.1) = d := (cellOver_eq_iff hd).mpr ⟨rfl, rfl⟩
  rw [pixelOf_drawCell m addr x0 y0 hc, hover, decide_eq_false hne, Bool.false_and, Bool.bne_false]

variable {cells : List (Nat × Nat)} (hnodup : cells.Nodup) (hfit : ∀ c ∈ cells, c.1 < 32 ∧ c.2 < 64)
include hnodup hfit

/-- Cells drawn one after another: no two lie over the same pixel, so each pixel is flipped once at most. -/
theorem pixelOf_foldl_drawCell (acc : FrameBuffer × Bool) (px py : Nat) :
    pixelOf (cells.foldl (drawCell m addr x0 y0) acc).1 px py = (pixelOf acc.1 px py !=
      (decide (cellOver x0 y0 px py ∈ cells) && cellBit m addr (cellOver x0 y0 px py))) := by
  induction cells generalizing acc with
  | nil => simp
  | cons c rest ih =>
    obtain ⟨hc, hnodup⟩ := List.nodup_cons.mp hnodup
    obtain ⟨hcfit, hfit⟩ := List.forall_mem_cons.mp hfit
    rw [List.foldl_cons, ih hnodup hfit, pixelOf_drawCell m addr x0 y0 hcfit]
    by_cases hover : cellOver x0 y0 px py = c
    · simp [hover, hc]
    · simp [hover]

/-- A pixel is set when its cell is drawn exactly when it was set before all of them. -/
theorem foldl_drawCell_collision_iff (acc : FrameBuffer × Bool) :
    (cells.foldl (drawCell m addr x0 y0) acc).2 = true ↔ acc.2 = true ∨
      ∃ c ∈ cells, cellBit m addr c = true ∧ pixelOf acc.1 (x0 + c.2) (y0 + c.1) = true := by
  induction cells generalizing acc with
  | nil => simp
  | cons c rest ih =>
    obtain ⟨hc, hnodup⟩ := List.nodup_cons.mp hnodup
    obtain ⟨hcfit, hfit⟩ := List.forall_mem_cons.mp hfit
    have hkept : ∀ d ∈ rest, pixelOf (drawCell m addr x0 y0 acc c).1 (x0 + d.2) (y0 + d.1) =
        pixelOf acc.1 (x0 + d.2) (y0 + d.1) := fun d hd =>
      pixelOf_drawCell_of_ne m addr x0 y0 hcfit (hfit d hd) (ne_of_mem_of_not_mem hd hc) acc
    rw [List.foldl_cons, ih hnodup hfit, List.exists_mem_cons_iff, ← or_assoc]
    exact or_congr (drawBit_collision_iff _ _ _ _ _)
      (exists_congr fun d => and_congr_right fun hd => by rw [hkept d hd])

end

/-! ## A whole sprite -/

section
variable (s : State) (x0 y0 : Nat) {n : Nat} (hn : n ≤ 32)
include hn

theorem spriteCells_fit : ∀ c ∈ spriteCells n, c.1 < 32 ∧ c.2 < 64 := by
  intro c hc
  obtain ⟨hrow, hcol⟩ := mem_spriteCells.mp hc
  omega

theorem pixelOf_drawRows (px py : Nat) : pixelOf (drawRows s.mem s.index.toNat x0 y0 n s.fb).1 px py =
    (pixel s px py != spriteCovers s x0 y0 n px py) := by
  rw [drawRows_eq_foldl_drawCell, pixelOf_foldl_drawCell _ _ _ _ (spriteCells_nodup n) (spriteCells_fit hn)]
  congr 1
  rw [Bool.eq_iff_iff, spriteCovers_iff, Bool.and_eq_true, decide_eq_true_eq]

/-- Some pixel under a set bit was set. -/
theorem drawRows_collision_iff_covered : (drawRows s.mem s.index.toNat x0 y0 n s.fb).2 = true ↔
    ∃ px py, px < 64 ∧ py < 32 ∧ pixel s px py = true ∧ spriteCovers s x0 y0 n px py = true := by
  rw [drawRows_eq_foldl_drawCell, foldl_drawCell_collision_iff _ _ _ _ (spriteCells_nodup n) (spriteCells_fit hn)]
  simp only [spriteCovers_iff, Bool.false_eq_true, false_or]
  constructor
  · rintro ⟨c, hc, hbit, hset⟩
    have hover : cellOver x0 y0 ((x0 + c.2) % 64) ((y0 + c.1) % 32) = c :=
      (cellOver_eq_iff (spriteCells_fit hn c hc)).mpr ⟨Nat.mod_mod _ _, Nat.mod_mod _ _⟩
    refine ⟨(x0 + c.2) % 64, (y0 + c.1) % 32, Nat.mod_lt _ (by decide), Nat.mod_lt _ (by decide), ?_, ?_⟩
    · exact (pixelOf_congr ⟨Nat.mod_mod _ _, Nat.mod_mod _ _⟩).trans hset
    · rw [hover]
      exact ⟨hc, hbit⟩
  · rintro ⟨px, py, -, -, hset, hc, hbit⟩
    have hover := (cellOver_eq_iff (spriteCells_fit hn _ hc)).mp rfl
    exact ⟨_, hc, hbit, (pixelOf_congr hover).symm.trans hset⟩

/-- The collision flag: some pixel went from set to unset (R152). -/
theorem drawRows_collision_iff_lost : (drawRows s.mem s.index.toNat x0 y0 n s.fb).2 = true ↔
    ∃ px py, px < 64 ∧ py < 32 ∧ pixel s px py = true ∧
      pixelOf (drawRows s.mem s.index.toNat x0 y0 n s.fb).1 px py = false := by
  rw [drawRows_collision_iff_covered s x0 y0 hn]
  refine exists₂_congr fun px py => and_congr_right fun _ => and_congr_right fun _ => and_congr_right fun hset => ?_
  rw [pixelOf_drawRows s x0 y0 hn, hset, Bool.true_bne, Bool.not_eq_false']

end

/-- Settles O49: the pixels by `pixelOf_drawRows`, both clauses of VF by `drawRows_collision_iff_lost`. -/
theorem drawSpriteFlipsCoveredPixels : Obligations.DrawSpriteFlipsCoveredPixels := by
  unfold Obligations.DrawSpriteFlipsCoveredPixels
  intro x y n s
  have hn : n.toNat ≤ 32 := by omega
  have hcollision := drawRows_collision_iff_lost s (reg s x).toNat (reg s y).toNat hn
  refine ⟨_, rfl, fun px py _ _ => pixelOf_drawRows s _ _ hn px py, fun hlost => ?_, fun hkept => ?_, rfl,
    atNext_of_advance rfl rfl, onlyDisplay_timerPhase _ _ (sameRegsBut_of_setReg rfl rfl)⟩
  · exact (reg_of_setReg rfl).trans (congrArg flag (hcollision.mpr hlost))
  · have hnone := mt hcollision.mp fun ⟨px, py, hpx, hpy, hset, hunset⟩ =>
      Bool.false_ne_true (hunset.symm.trans (hkept px py hpx hpy hset))
    exact (reg_of_setReg rfl).trans (congrArg flag (Bool.eq_false_of_not_eq_true hnone))

/-- Settles O50: the second sprite covers the same pixels, since the first draw keeps both coordinates, `I` and
memory, and a pixel flipped twice is as it was. -/
theorem drawingTwiceRestoresTheFrame : Obligations.DrawingTwiceRestoresTheFrame := by
  unfold Obligations.DrawingTwiceRestoresTheFrame
  intro x y n s hx hy
  obtain ⟨t, ht, hfirst, -, -, -, -, hregs, hindex, hmem, -⟩ := drawSpriteFlipsCoveredPixels x y n s
  obtain ⟨u, hu, hsecond, -⟩ := drawSpriteFlipsCoveredPixels x y n t
  have hcovers (px py : Nat) : spriteCovers t (reg t x).toNat (reg t y).toNat n.toNat px py =
      spriteCovers s (reg s x).toNat (reg s y).toNat n.toNat px py := by
    simp only [spriteCovers, hregs x hx, hregs y hy, hindex, hmem _]
  refine ⟨t, u, ht, hu, frame_ext fun px py hpx hpy => ?_⟩
  calc pixel u px py
      = ((pixel s px py != spriteCovers s (reg s x).toNat (reg s y).toNat n.toNat px py) !=
          spriteCovers s (reg s x).toNat (reg s y).toNat n.toNat px py) := by
        rw [hsecond px py hpx hpy, hcovers, hfirst px py hpx hpy]
    _ = pixel s px py := by rw [Bool.bne_assoc, bne_self_eq_false, Bool.bne_false]

/-! ## The redraw flag (R153) -/

/-- A display operation sets `redraw`, any other leaves it. -/
theorem redraw_of_exec {i : Instr} {s t : State} (h : exec i s = .next t) :
    ((i = .clearScreen ∨ ∃ x y n, i = .drawSprite x y n) → t.redraw = true) ∧
      (¬ (i = .clearScreen ∨ ∃ x y n, i = .drawSprite x y n) → t.redraw = s.redraw) := by
  constructor
  · rintro (rfl | ⟨x, y, n, rfl⟩)
    · exact congrArg State.redraw ((done_next _ _).mp h)
    · exact congrArg State.redraw ((done_next _ _).mp h)
  · intro hi
    by_contra hne
    obtain ⟨-, -, -, -, -, hdisplay, -⟩ := execWritesOnlyWhatTheAccessMatrixNames i s t h
    exact hi (hdisplay (.inr hne))

section
variable {i : Instr} {s t : State} (b : Bool)

theorem exec_ret_with_redraw (h : exec .ret s = .next t) :
    ∃ c, exec .ret { s with redraw := b } = .next { t with redraw := c } := by
  by_cases hsp : 0 < s.sp.val
  · obtain rfl := (done_next _ _).mp (exec_ret_pop hsp ▸ h)
    exact ⟨b, exec_ret_pop (s := { s with redraw := b }) hsp⟩
  · obtain rfl := (raise_next _ _ _ _ _).mp (exec_ret_empty hsp ▸ h)
    exact ⟨b, exec_ret_empty hsp⟩

theorem exec_call_with_redraw {nnn : Addr12} (h : exec (.call nnn) s = .next t) :
    ∃ c, exec (.call nnn) { s with redraw := b } = .next { t with redraw := c } := by
  by_cases hsp : s.sp.val < 16
  · obtain rfl := (done_next _ _).mp (exec_call_push nnn hsp ▸ h)
    exact ⟨b, exec_call_push (s := { s with redraw := b }) nnn hsp⟩
  · obtain rfl := (raise_next _ _ _ _ _).mp (exec_call_full nnn hsp ▸ h)
    exact ⟨b, exec_call_full nnn hsp⟩

theorem exec_waitForKey_with_redraw {x : RegIdx} (h : exec (.waitForKey x) s = .next t) :
    ∃ c, exec (.waitForKey x) { s with redraw := b } = .next { t with redraw := c } := by
  cases hk : leastKey s with
  | none =>
    obtain rfl := (blocked_next _ _).mp (exec_waitForKey_none x hk ▸ h)
    exact ⟨b, exec_waitForKey_none x hk⟩
  | some k =>
    obtain rfl := (done_next _ _).mp (exec_waitForKey_some x hk ▸ h)
    exact ⟨b, exec_waitForKey_some x hk⟩

theorem loadRegs_with_redraw (rs : List RegIdx) (s : State) :
    loadRegs rs { s with redraw := b } = { loadRegs rs s with redraw := b } :=
  (loadRegs_with_soundRedraw s.st b rs s).trans (by rw [← loadRegs_st rs s])

/-- No operation reads the redraw flag, and with another value of it nothing but the flag differs: the sound timer too
is the same, which `exec_with_soundRedraw` leaves open. -/
theorem exec_with_redraw (h : exec i s = .next t) :
    ∃ c, exec i { s with redraw := b } = .next { t with redraw := c } := by
  cases i with
  | ret => exact exec_ret_with_redraw b h
  | call nnn => exact exec_call_with_redraw b h
  | waitForKey x => exact exec_waitForKey_with_redraw b h
  | registerLoad x =>
    obtain rfl := (done_next _ _).mp h
    refine ⟨b, ?_⟩
    rw [exec, execRegisterLoad, loadRegs_with_redraw]
    rfl
  | skipEqConst _ _ | skipNeqConst _ _ | skipEqReg _ _ _ | skipNeqReg _ _ _ | skipIfKeyPressed _
  | skipIfKeyNotPressed _ =>
    obtain rfl := next_skipIf h
    exact ⟨b, done_skipIf _ _⟩
  | _ =>
    obtain rfl := (done_next _ _).mp h
    exact ⟨_, rfl⟩

end

/-- Settles O51: a running core's cycle is an illegal word's halt, which leaves the flag, or an operation, for which
`redraw_of_exec` and `exec_with_redraw` say it; the host's part is its action's one update. -/
theorem redrawIsSetByDisplayOperationsOnly : Obligations.RedrawIsSetByDisplayOperationsOnly := by
  unfold Obligations.RedrawIsSetByDisplayOperationsOnly
  refine ⟨fun s t hs h => ?_, fun i s t b h => exec_with_redraw b h, fun s => ⟨rfl, rfl⟩⟩
  rcases step_cases h with ⟨hhalt, -⟩ | ⟨-, hd, rfl⟩ | ⟨-, i, hd, hx⟩
  · exact absurd (hs.symm.trans hhalt) Bool.false_ne_true
  · simp [hd]
  · simp only [hd, Except.ok.injEq]
    exact redraw_of_exec hx

end Sys2Proof.Machine
end

section
/-! Keypad and timer operations (45_keys_timers.md): the key that is tested or taken, the value a timer ends the cycle
with, and nothing else written but `pc` and the timers. -/

namespace Sys2Proof.Machine

/-! ## The key operations (R160 to R163) -/

/-- The low nibble of a byte names the key of that number (R160; decision D10). -/
theorem lowNibble_eq {b : Byte} {k : RegIdx} (h : b.toNat % 16 = k.val) : lowNibble b = k :=
  Fin.ext ((lowNibble_val b).trans h)

/-- A skip on a negated condition: `done_skipIf_follows` with the two ways exchanged. -/
theorem done_skipIf_not_follows (c : Bool) (s : State) : ∃ t, done (skipIf (!c) s) = .next t ∧
    (if c then AtNext s t else AtSkip s t) ∧ OnlyRegs NoReg s t := by
  simpa only [Bool.not_eq_true', ← Bool.not_eq_true, ite_not] using done_skipIf_follows (!c) s

/-- Settles O52: the key that the low nibble names, and a skip on its flag or on the flag's negation. -/
theorem keySkipsFollowTheKeyFlag : Obligations.KeySkipsFollowTheKeyFlag := by
  unfold Obligations.KeySkipsFollowTheKeyFlag
  intro x k s hk
  simp only [exec, execSkipIfKeyPressed, execSkipIfKeyNotPressed, lowNibble_eq hk]
  exact ⟨done_skipIf_follows (keyDown s k) s, done_skipIf_not_follows (keyDown s k) s⟩

/-- Settles O53: with no key pressed there is no least one, and the cycle blocks. -/
theorem waitForKeyBlocksWithoutAKey : Obligations.WaitForKeyBlocksWithoutAKey := by
  unfold Obligations.WaitForKeyBlocksWithoutAKey
  intro x s hnone
  exact exec_waitForKey_none x ((leastKey_none s).mpr hnone)

/-- A key's number fits a byte. -/
theorem ofNat_key_toNat (k : RegIdx) : (BitVec.ofNat 8 k.val).toNat = k.val :=
  (BitVec.toNat_ofNat k.val 8).trans (Nat.mod_eq_of_lt (by omega))

/-- Settles O54: the key is the least pressed one, and its number is written as any register result is. -/
theorem waitForKeyTakesTheLeastKey : Obligations.WaitForKeyTakesTheLeastKey := by
  unfold Obligations.WaitForKeyTakesTheLeastKey
  intro x k s hdown hbelow
  have hleast : leastKey s = some k := (leastKey_some s k).mpr ⟨hdown, hbelow⟩
  obtain ⟨t, ht, hx, hrest⟩ := done_setReg s x (BitVec.ofNat 8 k.val)
  exact ⟨t, (exec_waitForKey_some x hleast).trans ht, hx ▸ ofNat_key_toNat k, hrest⟩

/-! ## The timer operations (R164 to R166) -/

/-- A completed cycle that writes the timers before its timer phase: both new values go down by one, floored at 0. -/
theorem done_setTimers (s : State) (dt st : Byte) : ∃ t, done (advance { s with dt := dt, st := st }) = .next t ∧
    t.dt.toNat = dt.toNat - 1 ∧ t.st.toNat = st.toNat - 1 ∧ AtNext s t ∧ SameRegsBut NoReg s t ∧ t.index = s.index ∧
    SameMemory s t ∧ SameStack s t ∧ SameDisplay s t ∧ SameKeysAndHalt s t :=
  ⟨_, rfl, tick_toNat dt, tick_toNat st, atNext_of_advance rfl rfl, sameRegsBut_of_v_eq rfl, rfl, fun _ => rfl,
    ⟨rfl, rfl⟩, ⟨rfl, rfl⟩, ⟨rfl, rfl, rfl⟩⟩

/-- Settles O55: get-delay-timer is a register write of the timer as the cycle found it; the set operations write one
timer and leave the other to the timer phase. -/
theorem timerOperationsMoveTimerValues : Obligations.TimerOperationsMoveTimerValues := by
  unfold Obligations.TimerOperationsMoveTimerValues
  intro x s
  refine ⟨done_setReg s x s.dt, done_setTimers s (reg s x) s.st, ?_⟩
  obtain ⟨t, ht, hdt, hst, hframe⟩ := done_setTimers s s.dt (reg s x)
  exact ⟨t, ht, hst, hdt, hframe⟩

end Sys2Proof.Machine
end

section
/-! Fatal conditions (60_exceptions.md): which cycles end halted, and that a halt sets the latch and the record alone. -/

namespace Sys2Proof.Machine

/-! ## The operations that halt (R172, R173) -/

/-- The two ways an operation halts a running core, each with its whole effect: the record names the operation's own word
and `pc`. -/
theorem exec_halts_cases {i : Instr} {s t : State} (hs : Running s) (h : exec i s = .next t) (ht : t.halted = true) :
    ((∃ nnn, i = .call nnn) ∧ s.sp.val = 16 ∧ t = raiseState .callStackOverflow (encode i) s.pc s) ∨
      (i = .ret ∧ s.sp.val = 0 ∧ t = raiseState .stackUnderflow (encode i) s.pc s) := by
  cases exec_ends h with
  | underflow hi hsp => exact .inr ⟨hi, hsp, hi ▸ rfl⟩
  | overflow nnn hi hsp => exact .inl ⟨⟨nnn, hi⟩, hsp, hi ▸ rfl⟩
  | _ => exact absurd (hs.symm.trans ht) Bool.false_ne_true

/-- An operation halts a running core exactly when it is a call on a full stack or a return on an empty one. -/
theorem exec_halts_iff {i : Instr} {s t : State} (hs : Running s) (h : exec i s = .next t) :
    t.halted = true ↔ (∃ nnn, i = .call nnn ∧ s.sp.val = 16) ∨ (i = .ret ∧ s.sp.val = 0) := by
  constructor
  · intro ht
    rcases exec_halts_cases hs h ht with ⟨⟨nnn, hi⟩, hsp, -⟩ | ⟨hi, hsp, -⟩
    · exact .inl ⟨nnn, hi, hsp⟩
    · exact .inr ⟨hi, hsp⟩
  · rintro (⟨nnn, rfl, hsp⟩ | ⟨rfl, hsp⟩)
    · rw [exec_call_full nnn (by omega), raise_next] at h
      exact congrArg State.halted h
    · rw [exec_ret_empty (by omega), raise_next] at h
      exact congrArg State.halted h

/-! ## The cycles that halt (R171, R175 to R177) -/

/-- Settles O13: an illegal word raises with the word fetched; an operation that halts raises with its own word, which is
the word fetched because decoding loses nothing (O2). -/
theorem faultingCyclesChangeOnlyLatchAndRecord : Obligations.FaultingCyclesChangeOnlyLatchAndRecord := by
  unfold Obligations.FaultingCyclesChangeOnlyLatchAndRecord
  intro s t hs h ht
  rcases step_cases h with ⟨hhalt, -⟩ | ⟨-, -, rfl⟩ | ⟨-, i, hd, hx⟩
  · exact absurd (hs.symm.trans hhalt) Bool.false_ne_true
  · exact ⟨.invalidInstruction, by decide, by decide, rfl⟩
  · obtain ⟨hw, -⟩ := encodeOfDecodeIsIdentity _ _ hd
    rcases exec_halts_cases hs hx ht with ⟨-, -, rfl⟩ | ⟨-, -, rfl⟩
    · exact ⟨.callStackOverflow, by decide, by decide, hw ▸ rfl⟩
    · exact ⟨.stackUnderflow, by decide, by decide, hw ▸ rfl⟩

/-- Settles O14: an illegal word is the first condition and halts; a word that decodes does not meet it, and
`exec_halts_iff` gives the other two. -/
theorem cycleHaltsExactlyOnFatalConditions : Obligations.CycleHaltsExactlyOnFatalConditions := by
  unfold Obligations.CycleHaltsExactlyOnFatalConditions
  intro s t hs h
  rcases step_cases h with ⟨hhalt, -⟩ | ⟨-, hd, rfl⟩ | ⟨-, i, hd, hx⟩
  · exact absurd (hs.symm.trans hhalt) Bool.false_ne_true
  · exact iff_of_true rfl (.inl ⟨_, hd⟩)
  · simpa [MeetsFatal, hd] using exec_halts_iff hs hx

/-- Settles O10: the decoder rejects an illegal word, and the cycle raises with it. -/
theorem illegalWordHaltsWithRecord : Obligations.IllegalWordHaltsWithRecord := by
  unfold Obligations.IllegalWordHaltsWithRecord
  intro s hs hw
  exact step_of_reject hs (decode_of_illegalWord hw)

end Sys2Proof.Machine
end

section
/-! Reset, and what the spec infers of more than one cycle (70_reset_and_hazards.md): the first word that runs (R201,
R202), a call and its return (R203), and the delay timer over completed cycles (R204). -/

namespace Sys2Proof.Machine

/-! ## The first cycle after a load (R201, R202) -/

/-- With `pc` at the entry point, the word fetched after a load is the image's first two bytes (O24 puts them there). -/
theorem fetchWord_hostAct_loadProgram {s : State} {hi lo : Byte} {rest : List Byte} (hpc : s.pc = 0x200#16)
    (hlen : (hi :: lo :: rest).length ≤ 3584) :
    fetchWord (hostAct (.loadProgram (hi :: lo :: rest)) s) = hi ++ lo := by
  obtain ⟨hcopied, -, m, hload⟩ := loadProgramCopiesVerbatim (hi :: lo :: rest) s hlen
  have hentry : (hostAct (.loadProgram (hi :: lo :: rest)) s).pc.toNat = 0x200 := by
    rw [hload]
    exact congrArg BitVec.toNat hpc
  have hhigh := hcopied 0 (by simp)
  have hlow := hcopied 1 (by simp)
  rw [fetchWord, hentry]
  exact congrArg₂ (· ++ ·) hhigh hlow

/-- Settles O26: Reset clears the latch and puts `pc` at the entry point, the load keeps both, and the word fetched
there is the image's first. -/
theorem firstCycleRunsFirstLoadedWord : Obligations.FirstCycleRunsFirstLoadedWord := by
  unfold Obligations.FirstCycleRunsFirstLoadedWord
  intro s hi lo rest i hlen hd
  have hfits : (hi :: lo :: rest).length ≤ 3584 := by
    simp only [List.length_cons]
    omega
  have hrun : Running (hostAct (.loadProgram (hi :: lo :: rest)) (hostAct .reset s)) := by
    rw [hostAct_loadProgram_fits hfits]
    rfl
  have hfetch : fetchWord (hostAct (.loadProgram (hi :: lo :: rest)) (hostAct .reset s)) = hi ++ lo :=
    fetchWord_hostAct_loadProgram rfl hfits
  exact step_of_decode hrun (hfetch ▸ hd)

/-! ## A call and its return (R203) -/

/-- Settles O32: the call pushes its own address (O30), and the return pops the entry below `SP`, which is that one
(O31). -/
theorem callThenReturnLandsOnTheCall : Obligations.CallThenReturnLandsOnTheCall := by
  unfold Obligations.CallThenReturnLandsOnTheCall
  intro nnn s hroom
  obtain ⟨t, hcall, -, htsp, hpushed, -⟩ := (callPushesItsOwnAddressOrOverflows nnn s).1 hroom
  obtain ⟨u, hret, husp, -, hpopped, -⟩ := (returnPopsOrUnderflows t).1 (by omega)
  have hpc : u.pc = s.pc := calc
    u.pc = t.stack[(⟨s.sp.val, hroom⟩ : Fin 16)] := hpopped ⟨s.sp.val, hroom⟩ htsp.symm
    _ = s.pc := (hpushed ⟨s.sp.val, hroom⟩).trans (if_pos rfl)
  exact ⟨t, u, hcall, hret, hpc, Fin.ext (by omega)⟩

/-! ## The delay timer over completed cycles (R204) -/

/-- A completed cycle that does not set the delay timer takes it down by one, floored at 0: O15 with the decoded
operation named. -/
theorem dt_of_completed_cycle {u t : State} {i : Instr} (hrun : Running u) (hd : decode (fetchWord u) = .ok i)
    (hset : ∀ x, i ≠ .setDelayTimer x) (hkey : ∀ x, i = .waitForKey x → ∃ key, keyDown u key = true)
    (h : step u = .next t) (ht : t.halted = false) : t.dt.toNat = u.dt.toNat - 1 := by
  obtain ⟨-, -, hcompleted⟩ := timerPhaseFollowsCompletedCyclesOnly u t hrun h
  simp only [hd, Except.ok.injEq] at hcompleted
  have hnotBlocked : ¬ ((∃ x, i = .waitForKey x) ∧ ∀ key, keyDown u key = false) := by
    rintro ⟨⟨x, hi⟩, hnone⟩
    obtain ⟨key, hdown⟩ := hkey x hi
    exact absurd ((hnone key).symm.trans hdown) Bool.false_ne_true
  obtain ⟨hdt, -⟩ := hcompleted ht hnotBlocked
  exact hdt fun ⟨x, hi⟩ => hset x hi

/-- Settles O16: by induction on the run, one cycle at a time by `dt_of_completed_cycle`. -/
theorem delayTimerCountsCompletedCycles : Obligations.DelayTimerCountsCompletedCycles := by
  unfold Obligations.DelayTimerCountsCompletedCycles
  intro s t k hrun
  induction hrun with
  | start => rfl
  | next _ hu hd hset hkey h ht ih => rw [dt_of_completed_cycle hu hd hset hkey h ht, ih, Nat.sub_sub]

end Sys2Proof.Machine
end
